-- ==== Sys2Proof/Word.lean ====
section
/-! DEFINITION. Word.lean: the widths of the spec's values (R9, R71). -/

namespace Sys2Proof

/-- A general register, a memory cell, a timer, an 8-bit immediate NN (R20, R29, R32, R71). -/
abbrev Byte := BitVec 8

/-- An instruction word, I, pc, a stack entry (R23, R24, R27, R70). -/
abbrev Word := BitVec 16

/-- A 12-bit address field NNN (R71). -/
abbrev Addr12 := BitVec 12

/-- A 4-bit field: a register index X or Y, or the immediate N (R71). -/
abbrev Nibble := BitVec 4

/-- A general register's number: every value of the 4-bit field is in range (R22). -/
abbrev Reg := Nibble

/-- The number of cells of memory, MEM_SIZE of R9. -/
abbrev memSize : Nat := 4096

end Sys2Proof
end

