-- ==== Sys2Proof/Config.lean ====
section
/-! DEFINITION. Config.lean: the open parameters of the spec (R10) as types, and the free values.
The default of each parameter is in Machine/Defaults.lean. -/

namespace Sys2Proof

/-- What SYS NNN does (R120, D5). -/
inductive SysPolicy where
  | fault  -- raise UnknownOpcode
  | nop    -- advance pc by 2
  deriving DecidableEq, Repr

/-- The register SHR and SHL shift (R148, R150, D9). -/
inductive ShiftSource where
  | vx
  | vy
  deriving DecidableEq, Repr

/-- What becomes of a sprite at the screen's edge (R194, D10). -/
inductive DrawEdge where
  | clip
  | wrapStart
  | wrapAll
  deriving DecidableEq, Repr

/-- What SKP and SKNP do with a register value above 0xF (R217, D13). -/
inductive KeyIndexPolicy where
  | fault
  | mask
  deriving DecidableEq, Repr

/-- Which of several pressed keys LD Vx, K stores (R10, R214, D14). `anyPressed` admits every member: it follows the
draw `State.pick`. `lowestPressed` is the choice the spec's deterministic simulator makes. -/
inductive KeySelect where
  | anyPressed
  | lowestPressed
  deriving DecidableEq, Repr

/-- What a fetch at an odd pc does (R52, D17). -/
inductive OddPcPolicy where
  | fault
  | fetch
  deriving DecidableEq, Repr

/-- The open parameters of R10, all of them. A machine is built with one value of this record and no instruction and no
act of the host changes it (R40; log 1). -/
structure Params where
  /-- FONT: the 80 bytes of the font table (R33, D23). -/
  font : Vector Byte 80
  sysPolicy : SysPolicy
  /-- LooseSkipReg: 5XYN and 9XYN with N ≠ 0 decode as N = 0 (R77, D6). -/
  looseSkipReg : Bool
  shiftSource : ShiftSource
  drawEdge : DrawEdge
  keyIndexPolicy : KeyIndexPolicy
  keySelect : KeySelect
  oddPcPolicy : OddPcPolicy
  deriving DecidableEq, Repr

/-- FREE VALUE (R210, R252, D21; log 6): the random byte of the step of that number, where the host's plan names none.
It has no body, so nothing constrains it. -/
opaque Config.randomByte : Nat → Byte

/-- FREE VALUE (R214, D14; log 7): the draw that picks one of several pressed keys at the step of that number, where the
host's plan names none. It has no body, so nothing constrains it. -/
opaque Config.keyPick : Nat → Fin 16

end Sys2Proof
end

