-- ==== Sys2Proof/Syntax.lean ====
section
/-! DEFINITION. Syntax.lean: the 35 instructions of the opcode map (R78), one constructor a row, in its order. -/

namespace Sys2Proof

/-- The instructions of R78. `x` and `y` are register fields, `nn` an 8-bit and `n` a 4-bit immediate, `nnn` a 12-bit
address (R71). -/
inductive Instr where
  | sys (nnn : Addr12)                      -- 0NNN  SYS NNN          R120
  | cls                                     -- 00E0  CLS              R191
  | ret                                     -- 00EE  RET              R121
  | jp (nnn : Addr12)                       -- 1NNN  JP NNN           R122
  | call (nnn : Addr12)                     -- 2NNN  CALL NNN         R123
  | seImm (x : Reg) (nn : Byte)             -- 3XNN  SE Vx, NN        R124
  | sneImm (x : Reg) (nn : Byte)            -- 4XNN  SNE Vx, NN       R125
  | seReg (x y : Reg)                       -- 5XY0  SE Vx, Vy        R126
  | ldImm (x : Reg) (nn : Byte)             -- 6XNN  LD Vx, NN        R140
  | addImm (x : Reg) (nn : Byte)            -- 7XNN  ADD Vx, NN       R141
  | ldReg (x y : Reg)                       -- 8XY0  LD Vx, Vy        R142
  | orReg (x y : Reg)                       -- 8XY1  OR Vx, Vy        R143
  | andReg (x y : Reg)                      -- 8XY2  AND Vx, Vy       R144
  | xorReg (x y : Reg)                      -- 8XY3  XOR Vx, Vy       R145
  | addReg (x y : Reg)                      -- 8XY4  ADD Vx, Vy       R146
  | sub (x y : Reg)                         -- 8XY5  SUB Vx, Vy       R147
  | shr (x y : Reg)                         -- 8XY6  SHR Vx, Vy       R148
  | subn (x y : Reg)                        -- 8XY7  SUBN Vx, Vy      R149
  | shl (x y : Reg)                         -- 8XYE  SHL Vx, Vy       R150
  | sneReg (x y : Reg)                      -- 9XY0  SNE Vx, Vy       R127
  | ldI (nnn : Addr12)                      -- ANNN  LD I, NNN        R170
  | jpV0 (nnn : Addr12)                     -- BNNN  JP V0, NNN       R128
  | rnd (x : Reg) (nn : Byte)               -- CXNN  RND Vx, NN       R210
  | drw (x y : Reg) (n : Nibble)            -- DXYN  DRW Vx, Vy, N    R192
  | skp (x : Reg)                           -- EX9E  SKP Vx           R211
  | sknp (x : Reg)                          -- EXA1  SKNP Vx          R212
  | ldVxDt (x : Reg)                        -- FX07  LD Vx, DT        R213
  | ldVxK (x : Reg)                         -- FX0A  LD Vx, K         R214
  | ldDtVx (x : Reg)                        -- FX15  LD DT, Vx        R215
  | ldStVx (x : Reg)                        -- FX18  LD ST, Vx        R216
  | addI (x : Reg)                          -- FX1E  ADD I, Vx        R171
  | ldF (x : Reg)                           -- FX29  LD F, Vx         R172
  | ldB (x : Reg)                           -- FX33  LD B, Vx         R173
  | ldStore (x : Reg)                       -- FX55  LD [I], Vx       R174
  | ldLoad (x : Reg)                        -- FX65  LD Vx, [I]       R175
  deriving DecidableEq, Repr

end Sys2Proof
end

