-- ==== Sys2Proof/WellFormed.lean ====
section
/-! DEFINITION. WellFormed.lean: which terms of Instr some word stands for. The field types already bound every operand;
one check is left, R74's precedence of CLS and RET over SYS. -/

namespace Sys2Proof

/-- SYS NNN stands for every word 0x0NNN but 0x00E0 and 0x00EE, which are CLS and RET (R74, R78). -/
def Instr.wellFormed : Instr → Bool
  | .sys nnn => nnn != 0x0E0#12 && nnn != 0x0EE#12
  | _ => true

/-- An instruction that some word decodes to. -/
abbrev WellFormed (i : Instr) : Prop := i.wellFormed = true

end Sys2Proof
end

