-- ==== Sys2Proof/Decode.lean ====
section
/-! DEFINITION. Decode.lean: the decoder (R70 to R79), total on any word and on any bytes, rejecting by name, and after it
the encoder, written from the same opcode map. -/

namespace Sys2Proof

/-! ## The fields of a word (R71; the positions of X and Y are C1's) -/

/-- The family, `w[15:12]`. -/
def fieldOp (w : Word) : Nibble := w.extractLsb' 12 4
/-- `X = w[11:8]` (DEDUCED, log 14). -/
def fieldX (w : Word) : Reg := w.extractLsb' 8 4
/-- `Y = w[7:4]` (DEDUCED, log 14). -/
def fieldY (w : Word) : Reg := w.extractLsb' 4 4
/-- `N = w[3:0]`. -/
def fieldN (w : Word) : Nibble := w.extractLsb' 0 4
/-- `NN = w[7:0]`. -/
def fieldNN (w : Word) : Byte := w.extractLsb' 0 8
/-- `NNN = w[11:0]`. -/
def fieldNNN (w : Word) : Addr12 := w.extractLsb' 0 12

/-- The word of two bytes: the byte at the lower address is the more significant (R51). -/
def wordOfBytes (hi lo : Byte) : Word := hi ++ lo

/-- The byte of a word that lies at the lower address (R51). -/
def highByte (w : Word) : Byte := w.extractLsb' 8 8

/-- The byte of a word that lies at the higher address (R51). -/
def lowByte (w : Word) : Byte := w.extractLsb' 0 8

/-! ## The decoder -/

/-- Why bytes are no instruction. -/
inductive DecodeError where
  /-- The word is none of the 35 rows (R79): the step that fetched it raises UnknownOpcode with the word. -/
  | unknownOpcode (w : Word)
  /-- Fewer than two bytes: no word to decode. A step never meets it, since a fetch yields a whole word (R52). -/
  | truncated
  deriving DecidableEq, Repr

/-- What decoding answers: an instruction, or a rejection by name. -/
abbrev Decoded := Except DecodeError Instr

/-- Family 0x0, discriminated on the whole word (R74). -/
def decodeFamily0 (w : Word) : Decoded :=
  if w = 0x00E0#16 then .ok .cls
  else if w = 0x00EE#16 then .ok .ret
  else .ok (.sys (fieldNNN w))

/-- Families 0x5 and 0x9: N must be 0 unless LooseSkipReg (R77). -/
def decodeSkipReg (loose : Bool) (w : Word) (build : Reg → Reg → Instr) : Decoded :=
  if fieldN w = 0x0#4 ∨ loose = true then .ok (build (fieldX w) (fieldY w)) else .error (.unknownOpcode w)

/-- Family 0x8, dispatched on the low nibble (R75). -/
def decodeFamily8 (w : Word) : Decoded :=
  match fieldN w with
  | 0x0#4 => .ok (.ldReg (fieldX w) (fieldY w))
  | 0x1#4 => .ok (.orReg (fieldX w) (fieldY w))
  | 0x2#4 => .ok (.andReg (fieldX w) (fieldY w))
  | 0x3#4 => .ok (.xorReg (fieldX w) (fieldY w))
  | 0x4#4 => .ok (.addReg (fieldX w) (fieldY w))
  | 0x5#4 => .ok (.sub (fieldX w) (fieldY w))
  | 0x6#4 => .ok (.shr (fieldX w) (fieldY w))
  | 0x7#4 => .ok (.subn (fieldX w) (fieldY w))
  | 0xE#4 => .ok (.shl (fieldX w) (fieldY w))
  | _ => .error (.unknownOpcode w)

/-- Family 0xE, dispatched on the low byte (R76). -/
def decodeFamilyE (w : Word) : Decoded :=
  match fieldNN w with
  | 0x9E#8 => .ok (.skp (fieldX w))
  | 0xA1#8 => .ok (.sknp (fieldX w))
  | _ => .error (.unknownOpcode w)

/-- Family 0xF, dispatched on the low byte (R76). -/
def decodeFamilyF (w : Word) : Decoded :=
  match fieldNN w with
  | 0x07#8 => .ok (.ldVxDt (fieldX w))
  | 0x0A#8 => .ok (.ldVxK (fieldX w))
  | 0x15#8 => .ok (.ldDtVx (fieldX w))
  | 0x18#8 => .ok (.ldStVx (fieldX w))
  | 0x1E#8 => .ok (.addI (fieldX w))
  | 0x29#8 => .ok (.ldF (fieldX w))
  | 0x33#8 => .ok (.ldB (fieldX w))
  | 0x55#8 => .ok (.ldStore (fieldX w))
  | 0x65#8 => .ok (.ldLoad (fieldX w))
  | _ => .error (.unknownOpcode w)

/-- Decode one word (R73 to R79). `loose` is the parameter LooseSkipReg; nothing else but the word is read (R103). -/
def decodeWord (loose : Bool) (w : Word) : Decoded :=
  match fieldOp w with
  | 0x0#4 => decodeFamily0 w
  | 0x1#4 => .ok (.jp (fieldNNN w))
  | 0x2#4 => .ok (.call (fieldNNN w))
  | 0x3#4 => .ok (.seImm (fieldX w) (fieldNN w))
  | 0x4#4 => .ok (.sneImm (fieldX w) (fieldNN w))
  | 0x5#4 => decodeSkipReg loose w .seReg
  | 0x6#4 => .ok (.ldImm (fieldX w) (fieldNN w))
  | 0x7#4 => .ok (.addImm (fieldX w) (fieldNN w))
  | 0x8#4 => decodeFamily8 w
  | 0x9#4 => decodeSkipReg loose w .sneReg
  | 0xA#4 => .ok (.ldI (fieldNNN w))
  | 0xB#4 => .ok (.jpV0 (fieldNNN w))
  | 0xC#4 => .ok (.rnd (fieldX w) (fieldNN w))
  | 0xD#4 => .ok (.drw (fieldX w) (fieldY w) (fieldN w))
  | 0xE#4 => decodeFamilyE w
  | _ => decodeFamilyF w  -- 0xF, the one nibble left

/-- Decode the instruction at the head of some bytes, and the bytes after it (R51, R70). -/
def decode (loose : Bool) : List Byte → Except DecodeError (Instr × List Byte)
  | hi :: lo :: rest =>
    match decodeWord loose (wordOfBytes hi lo) with
    | .ok i => .ok (i, rest)
    | .error e => .error e
  | _ => .error .truncated

/-! ## The encoder -/

/-- The word of an instruction, from the opcode map (R71, R78). -/
def encode : Instr → Word
  | .sys nnn => 0x0#4 ++ nnn
  | .cls => 0x00E0#16
  | .ret => 0x00EE#16
  | .jp nnn => 0x1#4 ++ nnn
  | .call nnn => 0x2#4 ++ nnn
  | .seImm x nn => 0x3#4 ++ x ++ nn
  | .sneImm x nn => 0x4#4 ++ x ++ nn
  | .seReg x y => 0x5#4 ++ x ++ y ++ 0x0#4
  | .ldImm x nn => 0x6#4 ++ x ++ nn
  | .addImm x nn => 0x7#4 ++ x ++ nn
  | .ldReg x y => 0x8#4 ++ x ++ y ++ 0x0#4
  | .orReg x y => 0x8#4 ++ x ++ y ++ 0x1#4
  | .andReg x y => 0x8#4 ++ x ++ y ++ 0x2#4
  | .xorReg x y => 0x8#4 ++ x ++ y ++ 0x3#4
  | .addReg x y => 0x8#4 ++ x ++ y ++ 0x4#4
  | .sub x y => 0x8#4 ++ x ++ y ++ 0x5#4
  | .shr x y => 0x8#4 ++ x ++ y ++ 0x6#4
  | .subn x y => 0x8#4 ++ x ++ y ++ 0x7#4
  | .shl x y => 0x8#4 ++ x ++ y ++ 0xE#4
  | .sneReg x y => 0x9#4 ++ x ++ y ++ 0x0#4
  | .ldI nnn => 0xA#4 ++ nnn
  | .jpV0 nnn => 0xB#4 ++ nnn
  | .rnd x nn => 0xC#4 ++ x ++ nn
  | .drw x y n => 0xD#4 ++ x ++ y ++ n
  | .skp x => 0xE#4 ++ x ++ 0x9E#8
  | .sknp x => 0xE#4 ++ x ++ 0xA1#8
  | .ldVxDt x => 0xF#4 ++ x ++ 0x07#8
  | .ldVxK x => 0xF#4 ++ x ++ 0x0A#8
  | .ldDtVx x => 0xF#4 ++ x ++ 0x15#8
  | .ldStVx x => 0xF#4 ++ x ++ 0x18#8
  | .addI x => 0xF#4 ++ x ++ 0x1E#8
  | .ldF x => 0xF#4 ++ x ++ 0x29#8
  | .ldB x => 0xF#4 ++ x ++ 0x33#8
  | .ldStore x => 0xF#4 ++ x ++ 0x55#8
  | .ldLoad x => 0xF#4 ++ x ++ 0x65#8

/-- The two bytes of an instruction in memory order (R51). -/
def encodeBytes (i : Instr) : List Byte := [highByte (encode i), lowByte (encode i)]

/-! ## The opcode map as masks and matches (R78) -/

/-- The mask of an instruction's row. -/
def rowMask : Instr → Word
  | .cls | .ret => 0xFFFF#16
  | .seReg .. | .ldReg .. | .orReg .. | .andReg .. | .xorReg .. | .addReg .. | .sub .. | .shr .. | .subn .. | .shl ..
  | .sneReg .. => 0xF00F#16
  | .skp _ | .sknp _ | .ldVxDt _ | .ldVxK _ | .ldDtVx _ | .ldStVx _ | .addI _ | .ldF _ | .ldB _ | .ldStore _
  | .ldLoad _ => 0xF0FF#16
  | .sys _ | .jp _ | .call _ | .seImm .. | .sneImm .. | .ldImm .. | .addImm .. | .ldI _ | .jpV0 _ | .rnd ..
  | .drw .. => 0xF000#16

/-- The match of an instruction's row. -/
def rowMatch : Instr → Word
  | .sys _ => 0x0000#16
  | .cls => 0x00E0#16
  | .ret => 0x00EE#16
  | .jp _ => 0x1000#16
  | .call _ => 0x2000#16
  | .seImm .. => 0x3000#16
  | .sneImm .. => 0x4000#16
  | .seReg .. => 0x5000#16
  | .ldImm .. => 0x6000#16
  | .addImm .. => 0x7000#16
  | .ldReg .. => 0x8000#16
  | .orReg .. => 0x8001#16
  | .andReg .. => 0x8002#16
  | .xorReg .. => 0x8003#16
  | .addReg .. => 0x8004#16
  | .sub .. => 0x8005#16
  | .shr .. => 0x8006#16
  | .subn .. => 0x8007#16
  | .shl .. => 0x800E#16
  | .sneReg .. => 0x9000#16
  | .ldI _ => 0xA000#16
  | .jpV0 _ => 0xB000#16
  | .rnd .. => 0xC000#16
  | .drw .. => 0xD000#16
  | .skp _ => 0xE09E#16
  | .sknp _ => 0xE0A1#16
  | .ldVxDt _ => 0xF007#16
  | .ldVxK _ => 0xF00A#16
  | .ldDtVx _ => 0xF015#16
  | .ldStVx _ => 0xF018#16
  | .addI _ => 0xF01E#16
  | .ldF _ => 0xF029#16
  | .ldB _ => 0xF033#16
  | .ldStore _ => 0xF055#16
  | .ldLoad _ => 0xF065#16

/-! ## The table's numbering of bits -/

/-- The bytes, in memory order, of an instruction whose bits, as the opcode table numbers them, are `w`; bits above
`nbits` are 0. The instruction is one word, and its high byte is stored first (R51). -/
def tableBytes (nbits w : Nat) : List Byte :=
  let word : Word := BitVec.ofNat 16 (w % 2 ^ nbits)
  [highByte word, lowByte word]

/-- The instruction the decoder reads from those bytes under the default parameters (R10). -/
def decodeTableWord (nbits w : Nat) : Option Instr :=
  match decode Machine.defaultParams.looseSkipReg (tableBytes nbits w) with
  | .ok (i, _) => some i
  | .error _ => none

end Sys2Proof
end

