-- ==== Sys2Proof/Machine/State.lean ====
section
/-! DEFINITION. Machine/State.lean: the state of the machine (R39), its faults and refusals, and reset (R260, R261). -/

namespace Sys2Proof.Machine

/-- The faults of R230, each with the info it records (log 19). A faulting step writes the record into `State.fault` and
commits nothing else (R232); the steps after it answer `Outcome.fault` with the same cause (R100; log 2). All are SAFE
stops: the spec's machine halts there too. -/
inductive Fault where
  /-- Code 1 (R231). Raised by decode (R79) and by SYS under SysPolicy = fault (R120), with the raw word. Safe. -/
  | unknownOpcode (w : Word)
  /-- Code 2 (R233). Raised by a fetch at pc ≥ 0xFFF and by DRW, FX33, FX55, FX65, with the first bad address. Safe. -/
  | addressOutOfRange (a : Nat)
  /-- Code 3 (R234). Raised by a fetch at an odd pc under OddPcPolicy = fault, with pc. Safe. -/
  | misalignedFetch (pc : Word)
  /-- Code 4 (R235). Raised by CALL with 16 frames active, with pc. Safe. -/
  | stackOverflow (pc : Word)
  /-- Code 5 (R236). Raised by RET with no frame active, with pc. Safe. -/
  | stackUnderflow (pc : Word)
  /-- Code 6 (R237). Raised by SKP and SKNP when Vx > 0xF under KeyIndexPolicy = fault, with Vx. Safe. -/
  | keyIndexOutOfRange (v : Byte)
  /-- Code 7 (R238). Raised by the loader alone, for an image over 3584 bytes, with its length. Safe. -/
  | invalidImageSize (length : Nat)
  deriving DecidableEq, Repr

/-- The record a faulting step writes: the fault with its info, and the pc of the faulting instruction (R37, R232). -/
structure FaultRecord where
  cause : Fault
  pc : Word
  deriving DecidableEq, Repr

/-- Why the model gives no meaning. No instruction and no step answers a refusal. -/
inductive Refusal where
  /-- An arm of exec whose instruction has no meaning yet; no arm is left so. Safe. -/
  | notModelled (mnemonic : String)
  /-- The loader, asked to load after stepping has begun, which the host must not do (R256, D25; log 12). Safe. -/
  | loadAfterFirstStep
  deriving DecidableEq, Repr

/-- The 4096-byte memory (R32) as the cells that differ from what an unlisted address reads as (`Memory.initByte`), in
rising order of address (`Memory.wf`). -/
abbrev Memory := List Host.Cell

/-- One pixel's place: column `x`, row `y` (R34). -/
structure Pixel where
  x : Fin 64
  y : Fin 32
  deriving DecidableEq, Repr

/-- The framebuffer: 32 rows of 64 one-bit pixels, row-major (R34). -/
abbrev Framebuffer := Vector (Vector Bool 64) 32

/-- What the host does before one step (R250 to R253, R256): the key vector it presents, the random byte and the key draw
it supplies, and whether it acknowledges the frame by clearing `dirty`. It cannot write a pixel (log 5). -/
structure HostTurn where
  keys : BitVec 16
  rnd : Byte
  pick : Fin 16
  ackDirty : Bool
  deriving DecidableEq, Repr

/-- The machine's state: R39's list, the input and output ports (R251, R252, R254), the parameters (R10; log 1), and the
model's own `pick`, `plan` and `steps` (log 5, 6, 7). -/
structure State where
  /-- V0 to VF (R20); VF is also the flag register (R21). -/
  v : Vector Byte 16
  /-- The index register I (R23). -/
  i : Word
  /-- The program counter (R24). -/
  pc : Word
  /-- The return addresses (R27). -/
  stack : Vector Word 16
  /-- The count of active frames, 0 to 16 (R28; log 9). -/
  sp : Fin 17
  /-- The delay timer DT (R29). -/
  dt : Byte
  /-- The sound timer ST (R30). -/
  st : Byte
  /-- The memory (R32, R50). -/
  mem : Memory
  /-- The framebuffer (R34). -/
  fb : Framebuffer
  /-- The redraw flag (R35). -/
  dirty : Bool
  /-- The fault status (R37). -/
  fault : Option FaultRecord
  /-- The key input port: bit k is key k, pressed (R36, R251). -/
  keys : BitVec 16
  /-- The random input port: this step's random byte (R108, R252; log 6). -/
  rnd : Byte
  /-- The tone output port: whether the last step emitted the tone (R106, R254; log 8). -/
  tone : Bool
  /-- The open parameters, which nothing writes (R10, R40; log 1). -/
  params : Params
  /-- MODEL'S OWN: the draw that selects one of several pressed keys (R214, D14; log 7). -/
  pick : Fin 16
  /-- MODEL'S OWN: what the host does before each coming step, the next one first (R256; log 5). -/
  plan : List HostTurn
  /-- MODEL'S OWN: the steps begun since reset, the argument of the free values (log 6). -/
  steps : Nat
  deriving DecidableEq, Repr

/-- What a meaning and a step answer. -/
abbrev Result := Host.Outcome State Fault Refusal

/-- Machine construction under given parameters: the font is pre-loaded (it is what the unlisted cells read as), pc is
0x200 and everything else starts zeroed (R260, R261). -/
def State.construct (p : Params) : State where
  v := Vector.replicate 16 0
  i := 0
  pc := 0x200
  stack := Vector.replicate 16 0
  sp := 0
  dt := 0
  st := 0
  mem := []
  fb := Vector.replicate 32 (Vector.replicate 64 false)
  dirty := false
  fault := none
  keys := 0
  rnd := 0
  tone := false
  params := p
  pick := 0
  plan := []
  steps := 0

/-- The machine right after reset, under the default parameters (R260, R261). -/
def State.reset : State := State.construct defaultParams

end Sys2Proof.Machine
end

