-- ==== Sys2Proof/Machine/Ops.lean ====
section
/-! DEFINITION. Machine/Ops.lean: the named operations over memory, registers, stack and framebuffer, raising a fault, the
fetch, the timer tick, and the host's ports. -/

namespace Sys2Proof.Machine

/-! ## Memory -/

/-- WHAT AN UNLISTED ADDRESS READS AS: the reset content, the font at 0x000 to 0x04F and 0x00 elsewhere (R32, R57). -/
def Memory.initByte (font : Vector Byte 80) (a : Nat) : Byte := if h : a < 80 then font[a] else 0

/-- The byte at an address (R55). -/
def Memory.read (font : Vector Byte 80) : Memory → Nat → Byte
  | [], a => Memory.initByte font a
  | (c, b) :: m, a => if c = a then b else Memory.read font m a

/-- A cell put in front of memory, unless it holds what an unlisted address reads as. -/
def Memory.push (font : Vector Byte 80) (a : Nat) (b : Byte) (m : Memory) : Memory :=
  if b = Memory.initByte font a then m else (a, b) :: m

/-- Memory with one byte written, in the canonical form. -/
def Memory.write (font : Vector Byte 80) : Memory → Nat → Byte → Memory
  | [], a, b => Memory.push font a b []
  | (c, d) :: m, a, b =>
    if a < c then Memory.push font a b ((c, d) :: m)
    else if a = c then Memory.push font a b m
    else (c, d) :: Memory.write font m a b

/-- Every cell lies at `lo` or above and below 4096, addresses strictly rise, and none holds what an unlisted address
reads as. -/
def Memory.wfFrom (font : Vector Byte 80) : Nat → Memory → Bool
  | _, [] => true
  | lo, (a, b) :: m =>
    decide (lo ≤ a) && decide (a < memSize) && decide (b ≠ Memory.initByte font a) && Memory.wfFrom font (a + 1) m

/-- The canonical form of memory. -/
def Memory.wf (font : Vector Byte 80) (m : Memory) : Bool := Memory.wfFrom font 0 m

/-- `MemRead(a, 1)` (R12, R56). -/
def State.readByte (s : State) (a : Nat) : Byte := Memory.read s.params.font s.mem a

/-- `MemWrite(a, 1, b)` (R12, R56). -/
def State.writeByte (s : State) (a : Nat) (b : Byte) : State :=
  { s with mem := Memory.write s.params.font s.mem a b }

/-- The `n` bytes from `base` up, in ascending order (R53). -/
def State.readBytes (s : State) (base n : Nat) : List Byte := (List.range n).map fun k => s.readByte (base + k)

/-- Bytes written from `base` up, in ascending order (R53). -/
def State.writeBytes (s : State) (base : Nat) : List Byte → State
  | [] => s
  | b :: bs => (s.writeByte base b).writeBytes (base + 1) bs

/-! ## Registers, program counter, timers -/

/-- VF, the flag register (R21). -/
abbrev vf : Reg := 0xF#4

/-- `x[r]` (R12, R20). -/
def State.getV (s : State) (r : Reg) : Byte := s.v[r.toNat]'(by have := r.isLt; omega)

/-- `x[r] <- b` (R12, R20). -/
def State.setV (s : State) (r : Reg) (b : Byte) : State :=
  { s with v := s.v.set r.toNat b (by have := r.isLt; omega) }

/-- `I <- a` (R23). -/
def State.setI (s : State) (a : Word) : State := { s with i := a }

/-- `pc <- a` (R24). -/
def State.setPc (s : State) (a : Word) : State := { s with pc := a }

/-- `pc <- pc + 2`, the advance of an instruction that neither transfers control nor skips (R25; DEDUCED, log 11). -/
def State.advance (s : State) : State := s.setPc (s.pc + 2)

/-- The pc rule of the skips: `pc + 4` when the condition holds, else `pc + 2` (R25). -/
def State.skipIf (s : State) (c : Bool) : State := if c then s.setPc (s.pc + 4) else s.advance

/-- `DT <- b` (R29). -/
def State.setDt (s : State) (b : Byte) : State := { s with dt := b }

/-- `ST <- b` (R30). -/
def State.setSt (s : State) (b : Byte) : State := { s with st := b }

/-- The registers V0 to Vr, in ascending order (R174). -/
def State.regsTo (s : State) (r : Reg) : List Byte := s.v.toList.take (r.toNat + 1)

/-- V0 to Vr loaded from memory, `x[k] <- mem[base + k]` for k ≤ r (R175). -/
def State.loadRegsTo (s : State) (r : Reg) (base : Nat) : State :=
  { s with v := Vector.ofFn fun k => if k.val ≤ r.toNat then s.readByte (base + k.val) else s.v[k] }

/-! ## Call stack -/

/-- `stack[sp] <- a; sp <- sp + 1`, for fewer than 16 active frames (R28, R123). -/
def State.pushFrame (s : State) (a : Word) (h : s.sp.val < 16) : State :=
  { s with stack := s.stack.set s.sp.val a h, sp := ⟨s.sp.val + 1, by omega⟩ }

/-- The most recent return address, `stack[sp - 1]`, for a frame active (R28). -/
def State.topFrame (s : State) (h : 0 < s.sp.val) : Word := s.stack[s.sp.val - 1]'(by have := s.sp.isLt; omega)

/-- `sp <- sp - 1`; the entry popped keeps its value (R27, R28). -/
def State.popFrame (s : State) (h : 0 < s.sp.val) : State :=
  { s with sp := ⟨s.sp.val - 1, by have := s.sp.isLt; omega⟩ }

/-! ## Framebuffer -/

/-- `fb[y][x]` (R34). -/
def Framebuffer.lit (fb : Framebuffer) (p : Pixel) : Bool := (fb[p.y])[p.x]

/-- `fb[y][x] <- fb[y][x] XOR 1` (R192). -/
def Framebuffer.flip (fb : Framebuffer) (p : Pixel) : Framebuffer :=
  fb.set p.y ((fb[p.y]).set p.x (!fb.lit p))

/-- Every pixel 0 (R191). -/
def Framebuffer.blank : Framebuffer := Vector.replicate 32 (Vector.replicate 64 false)

/-- The sprite's pixels flipped one after the other; the flag becomes true when one of them was lit (R192, R195). -/
def Framebuffer.blit : List Pixel → Framebuffer × Bool → Framebuffer × Bool
  | [], r => r
  | p :: ps, (fb, c) => Framebuffer.blit ps (fb.flip p, c || fb.lit p)

/-- The framebuffer write port: new pixels, and `dirty <- 1` (R190, R196). -/
def State.draw (s : State) (fb : Framebuffer) : State := { s with fb := fb, dirty := true }

/-! ## Faults -/

/-- The numeric code of a fault (R230). -/
def Fault.code : Fault → Nat
  | .unknownOpcode _ => 1
  | .addressOutOfRange _ => 2
  | .misalignedFetch _ => 3
  | .stackOverflow _ => 4
  | .stackUnderflow _ => 5
  | .keyIndexOutOfRange _ => 6
  | .invalidImageSize _ => 7

/-- The info a fault records (R230). -/
def Fault.info : Fault → Nat
  | .unknownOpcode w => w.toNat
  | .addressOutOfRange a => a
  | .misalignedFetch pc => pc.toNat
  | .stackOverflow pc => pc.toNat
  | .stackUnderflow pc => pc.toNat
  | .keyIndexOutOfRange v => v.toNat
  | .invalidImageSize n => n

/-- RAISING A FAULT, the one operation every fault goes through: the record (the fault and the pc of the faulting
instruction) is written, no tone is emitted, and nothing else changes (R107, R232). There is no handler and no return
(R241, R242). -/
def State.raise (s : State) (f : Fault) : State := { s with fault := some ⟨f, s.pc⟩, tone := false }

/-! ## The step around an instruction -/

/-- The fetch of R52: alignment, then range, then two bytes, the high byte first (log 18). -/
def State.fetch (s : State) : Except Fault Word :=
  if s.pc.getLsbD 0 = true ∧ s.params.oddPcPolicy = .fault then .error (.misalignedFetch s.pc)
  else if s.pc.toNat + 1 > 0xFFF then .error (.addressOutOfRange s.pc.toNat)
  else .ok (wordOfBytes (s.readByte s.pc.toNat) (s.readByte (s.pc.toNat + 1)))

/-- Fetch, then decode; a word that is no instruction is UnknownOpcode (R79, R101, R239). -/
def State.fetchInstr (s : State) : Except Fault Instr :=
  match s.fetch with
  | .error f => .error f
  | .ok w =>
    match decodeWord s.params.looseSkipReg w with
    | .ok i => .ok i
    | .error _ => .error (.unknownOpcode w)

/-- One tick of a timer: down by one when nonzero (R105, R106). -/
def tickTimer (b : Byte) : Byte := if b = 0 then 0 else b - 1

/-- The end of a step that did not fault: the delay timer ticks, the sound timer ticks, and the tone is emitted exactly
when the sound timer was 1 (R105, R106). -/
def State.tick (s : State) : State :=
  { s with dt := tickTimer s.dt, st := tickTimer s.st, tone := s.st == 1 }

/-- What a step makes of Execute's answer: a step that faulted commits only its record, any other ticks the timers
(R101, R107). -/
def finishStep : Result → Result
  | .next t => .next (if t.fault = none then t.tick else t)
  | o => o

/-! ## The host's ports -/

/-- The host's turn before a step (R250 to R253; log 5, 6, 7). With a turn planned: the keys, the random byte and the key
draw are the planned ones, and `dirty` is cleared if the host acknowledges the frame. With none planned: the keys stay as
they are, `dirty` is not cleared, and the random byte and the key draw are free values. -/
def State.hostTurn (s : State) : State :=
  match s.plan with
  | [] => { s with rnd := Config.randomByte s.steps, pick := Config.keyPick s.steps }
  | t :: rest =>
    { s with keys := t.keys, rnd := t.rnd, pick := t.pick, dirty := s.dirty && !t.ackDirty, plan := rest }

/-- The inputs of a step sampled, before the fetch (R108, R251, R252; log 20), and the step counted. -/
def State.beginStep (s : State) : State := { s.hostTurn with steps := s.steps + 1 }

/-- The greatest image the loader accepts, MAX_IMAGE of R9. -/
abbrev maxImage : Nat := 3584

/-- `Load(b, L)` (R262): the image at 0x200, or InvalidImageSize with memory unchanged; only before the first step
(R256; log 12). DESIGN CHOICE (log 21): a further load before the first step is accepted and writes over the earlier
image, whose bytes past the new one's end remain. -/
def State.load (s : State) (image : List Byte) : Result :=
  if s.steps ≠ 0 then .refused .loadAfterFirstStep
  else if image.length > maxImage then .fault (.invalidImageSize image.length)
  else .next (s.writeBytes 0x200 image)

/-- The framebuffer read port: the host may read every pixel (R253). -/
def State.framePixel (s : State) (p : Pixel) : Bool := s.fb.lit p

/-- An instruction's two bytes placed where the next step fetches; nothing is placed where a fetch would fault for its
range (R52). -/
def State.placeAtPc (s : State) (bytes : List Byte) : State :=
  if s.pc.toNat + 1 > 0xFFF then s else s.writeBytes s.pc.toNat bytes

end Sys2Proof.Machine
end

