-- ==== Sys2Proof/Machine/Flags.lean ====
section
/-! DEFINITION. Machine/Flags.lean: the flag computations (R146 to R152, R171, R195) and the order in which result and flag
are written (R152). -/

namespace Sys2Proof.Machine

/-- A flag as VF holds it: 1 or 0. -/
def flagByte (c : Bool) : Byte := if c then 1 else 0

/-- ADD's flag: overflow of the 8-bit sum (R146). -/
def carryFlag (a b : Byte) : Bool := decide (a.toNat + b.toNat > 255)

/-- The flag of SUB and SUBN, `a` the minuend: the complement of the borrow (R147, R149, R151). -/
def notBorrowFlag (a b : Byte) : Bool := !decide (b.toNat > a.toNat)

/-- SHR's flag: the bit shifted out, the least significant (R148). -/
def shiftedOutRight (b : Byte) : Bool := b.getLsbD 0

/-- SHL's flag: the bit shifted out, the most significant (R150). -/
def shiftedOutLeft (b : Byte) : Bool := b.getLsbD 7

/-- ADD I, Vx's flag: the untruncated sum passes 0xFFF (R171). -/
def indexOverflowFlag (i : Word) (b : Byte) : Bool := decide (i.toNat + b.toNat > 0xFFF)

/-- VF written as the flag. -/
def State.setFlag (s : State) (c : Bool) : State := s.setV vf (flagByte c)

/-- The result written to Vx and the flag to VF, VF last: when X = F the flag remains (R152; log 15). -/
def State.setResultFlag (s : State) (x : Reg) (r : Byte) (c : Bool) : State := (s.setV x r).setFlag c

end Sys2Proof.Machine
end

