-- ==== Sys2Proof/Machine/Operands.lean ====
section
/-! DEFINITION. Machine/Operands.lean: the operand forms of the instructions (R72, R176), the range check of a data access
(R56), the key index and key choice (R214, R217), and the places of a sprite's pixels (R193, R194). -/

namespace Sys2Proof.Machine

/-- V0, the register implicit in JP V0 (R128). -/
abbrev v0 : Reg := 0x0#4

/-- A 12-bit address as a value of I or pc, zero-extended (R72, R176 (a)). -/
def absolute (nnn : Addr12) : Word := nnn.setWidth 16

/-- The absolute address indexed by V0, neither masked nor wrapped to 12 bits (R128, R176 (b)). -/
def State.indexedByV0 (s : State) (nnn : Addr12) : Word := absolute nnn + (s.getV v0).setWidth 16

/-- The first address at or beyond 0x1000 among the `n` from `base` up, if there is one (R56, R233; log 16). -/
def firstBadAddress (base n : Nat) : Option Nat :=
  if n ≠ 0 ∧ base + n > memSize then some (max base memSize) else none

/-- I after an access with post-increment, modulo 2^16 (R174, R175, R176 (c)). -/
def State.indexPast (s : State) (r : Reg) : Word := BitVec.ofNat 16 (s.i.toNat + r.toNat + 1)

/-- I plus a register, modulo 2^16 (R171, R176 (e); log 17). -/
def State.indexPlus (s : State) (r : Reg) : Word := BitVec.ofNat 16 (s.i.toNat + (s.getV r).toNat)

/-- The address of the glyph of a value, five bytes a glyph, the value not masked (R172, R176 (e)). -/
def glyphAddress (b : Byte) : Word := BitVec.ofNat 16 (b.toNat * 5)

/-- The three decimal digits of a byte, hundreds first (R173). -/
def bcdDigits (b : Byte) : List Byte :=
  [BitVec.ofNat 8 (b.toNat / 100), BitVec.ofNat 8 (b.toNat / 10 % 10), BitVec.ofNat 8 (b.toNat % 10)]

/-- The value SHR and SHL shift, by the parameter ShiftSource (R148, R150). -/
def State.shiftOperand (s : State) (x y : Reg) : Byte :=
  match s.params.shiftSource with
  | .vx => s.getV x
  | .vy => s.getV y

/-- `KeyIndex(v)` (R217): the key a register value names, or the value itself as out of range. -/
def keyIndex (policy : KeyIndexPolicy) (b : Byte) : Option Nibble :=
  if b.toNat ≤ 0xF then some (b.setWidth 4)
  else
    match policy with
    | .fault => none
    | .mask => some (b.setWidth 4)

/-- `Key(k)` as sampled for this step (R12, R108). -/
def State.keyPressed (s : State) (k : Nibble) : Bool := s.keys.getLsbD k.toNat

/-- The set P of R214: the pressed keys, the lowest first. -/
def pressedKeys (keys : BitVec 16) : List (Fin 16) := (List.finRange 16).filter fun k => keys.getLsbD k.val

/-- `KeySelect(P)` (R214): nothing when no key is pressed, the key when one is, and of several the lowest or the one drawn,
by the parameter KeySelect. -/
def selectKey (policy : KeySelect) (pick : Fin 16) : List (Fin 16) → Option (Fin 16)
  | [] => none
  | [k] => some k
  | k :: j :: ks =>
    match policy with
    | .lowestPressed => some k
    | .anyPressed => (k :: j :: ks)[pick.val % (ks.length + 2)]?

/-- The key LD Vx, K stores, if one is pressed (R214). -/
def State.awaitedKey (s : State) : Option (Fin 16) :=
  selectKey s.params.keySelect s.pick (pressedKeys s.keys)

/-- A place on the screen, if it is on the screen. -/
def onScreen (px py : Nat) : Option Pixel :=
  if h : px < 64 ∧ py < 32 then some ⟨⟨px, h.1⟩, ⟨py, h.2⟩⟩ else none

/-- `Place` (R194) of the pixel `k` columns right of and `r` rows below the start `(x0, y0)`, by the parameter DrawEdge. -/
def place (edge : DrawEdge) (x0 y0 k r : Nat) : Option Pixel :=
  match edge with
  | .clip => onScreen (x0 + k) (y0 + r)
  | .wrapStart => onScreen (x0 % 64 + k) (y0 % 32 + r)
  | .wrapAll => onScreen ((x0 + k) % 64) ((y0 + r) % 32)

/-- The on-screen pixels of the set bits of one sprite row, leftmost first: bit 7 is the leftmost (R192, R193). -/
def spriteRowPixels (edge : DrawEdge) (x0 y0 r : Nat) (b : Byte) : List Pixel :=
  (List.range 8).filterMap fun k => if b.getLsbD (7 - k) then place edge x0 y0 k r else none

/-- The on-screen pixels of the set bits of a sprite whose rows from `r` on are given, top row first (R192, R193). -/
def spritePixels (edge : DrawEdge) (x0 y0 : Nat) : Nat → List Byte → List Pixel
  | _, [] => []
  | r, b :: bs => spriteRowPixels edge x0 y0 r b ++ spritePixels edge x0 y0 (r + 1) bs

end Sys2Proof.Machine
end

