-- ==== Sys2Proof/Machine/Alu.lean ====
section
/-! DEFINITION. Machine/Alu.lean: register loads and the ALU (42_register_alu.md, R140 to R152). -/

namespace Sys2Proof.Machine

/-- LD Vx, NN (R140). -/
def execLdImm (x : Reg) (nn : Byte) (s : State) : Result := .next (s.setV x nn).advance

/-- ADD Vx, NN (R141): wraps, no flag. -/
def execAddImm (x : Reg) (nn : Byte) (s : State) : Result := .next (s.setV x (s.getV x + nn)).advance

/-- LD Vx, Vy (R142). -/
def execLdReg (x y : Reg) (s : State) : Result := .next (s.setV x (s.getV y)).advance

/-- OR Vx, Vy (R143). -/
def execOrReg (x y : Reg) (s : State) : Result := .next (s.setV x (s.getV x ||| s.getV y)).advance

/-- AND Vx, Vy (R144). -/
def execAndReg (x y : Reg) (s : State) : Result := .next (s.setV x (s.getV x &&& s.getV y)).advance

/-- XOR Vx, Vy (R145). -/
def execXorReg (x y : Reg) (s : State) : Result := .next (s.setV x (s.getV x ^^^ s.getV y)).advance

/-- ADD Vx, Vy (R146). -/
def execAddReg (x y : Reg) (s : State) : Result :=
  .next (s.setResultFlag x (s.getV x + s.getV y) (carryFlag (s.getV x) (s.getV y))).advance

/-- SUB Vx, Vy (R147): Vx − Vy. -/
def execSub (x y : Reg) (s : State) : Result :=
  .next (s.setResultFlag x (s.getV x - s.getV y) (notBorrowFlag (s.getV x) (s.getV y))).advance

/-- SHR Vx, Vy (R148). -/
def execShr (x y : Reg) (s : State) : Result :=
  .next (s.setResultFlag x (s.shiftOperand x y >>> 1) (shiftedOutRight (s.shiftOperand x y))).advance

/-- SUBN Vx, Vy (R149): Vy − Vx. -/
def execSubn (x y : Reg) (s : State) : Result :=
  .next (s.setResultFlag x (s.getV y - s.getV x) (notBorrowFlag (s.getV y) (s.getV x))).advance

/-- SHL Vx, Vy (R150). -/
def execShl (x y : Reg) (s : State) : Result :=
  .next (s.setResultFlag x (s.shiftOperand x y <<< 1) (shiftedOutLeft (s.shiftOperand x y))).advance

end Sys2Proof.Machine
end

