-- ==== Sys2Proof/Machine/ControlFlow.lean ====
section
/-! DEFINITION. Machine/ControlFlow.lean: SYS, RET, JP, CALL, the skips on registers and immediates, JP V0
(41_control_flow.md, R120 to R130). -/

namespace Sys2Proof.Machine

/-- SYS NNN (R120): UnknownOpcode of its word, or a no-op, by the parameter SysPolicy. -/
def execSys (nnn : Addr12) (s : State) : Result :=
  match s.params.sysPolicy with
  | .fault => .next (s.raise (.unknownOpcode (encode (.sys nnn))))
  | .nop => .next s.advance

/-- RET (R121): to two bytes past the address of the CALL. -/
def execRet (s : State) : Result :=
  if h : 0 < s.sp.val then .next ((s.popFrame h).setPc (s.topFrame h + 2))
  else .next (s.raise (.stackUnderflow s.pc))

/-- JP NNN (R122). -/
def execJp (nnn : Addr12) (s : State) : Result := .next (s.setPc (absolute nnn))

/-- CALL NNN (R123): pushes its own address. -/
def execCall (nnn : Addr12) (s : State) : Result :=
  if h : s.sp.val < 16 then .next ((s.pushFrame s.pc h).setPc (absolute nnn))
  else .next (s.raise (.stackOverflow s.pc))

/-- SE Vx, NN (R124). -/
def execSeImm (x : Reg) (nn : Byte) (s : State) : Result := .next (s.skipIf (s.getV x == nn))

/-- SNE Vx, NN (R125). -/
def execSneImm (x : Reg) (nn : Byte) (s : State) : Result := .next (s.skipIf (s.getV x != nn))

/-- SE Vx, Vy (R126). -/
def execSeReg (x y : Reg) (s : State) : Result := .next (s.skipIf (s.getV x == s.getV y))

/-- SNE Vx, Vy (R127). -/
def execSneReg (x y : Reg) (s : State) : Result := .next (s.skipIf (s.getV x != s.getV y))

/-- JP V0, NNN (R128). -/
def execJpV0 (nnn : Addr12) (s : State) : Result := .next (s.setPc (s.indexedByV0 nnn))

end Sys2Proof.Machine
end

