-- ==== Sys2Proof/Machine/Display.lean ====
section
/-! DEFINITION. Machine/Display.lean: CLS and DRW (44_display.md, R190 to R196). -/

namespace Sys2Proof.Machine

/-- CLS (R191). -/
def execCls (s : State) : Result := .next (s.draw Framebuffer.blank).advance

/-- The pixels a sprite of `n` rows at (Vx, Vy) flips: operands read before any write (R192, D11). -/
def State.sprite (s : State) (x y : Reg) (n : Nibble) : List Pixel :=
  spritePixels s.params.drawEdge (s.getV x).toNat (s.getV y).toNat 0 (s.readBytes s.i.toNat n.toNat)

/-- DRW Vx, Vy, N (R192; log 10): XOR-blit, the collision flag into VF, `dirty` set. -/
def execDrw (x y : Reg) (n : Nibble) (s : State) : Result :=
  match firstBadAddress s.i.toNat n.toNat with
  | some a => .next (s.raise (.addressOutOfRange a))
  | none =>
    let r := Framebuffer.blit (s.sprite x y n) (s.fb, false)
    .next ((s.draw r.1).setFlag r.2).advance

end Sys2Proof.Machine
end

