-- ==== Sys2Proof/Machine/IndexMemory.lean ====
section
/-! DEFINITION. Machine/IndexMemory.lean: the index register and the memory instructions (43_index_memory.md, R170 to R176).
Every range check precedes every write (R56, R104). -/

namespace Sys2Proof.Machine

/-- LD I, NNN (R170). -/
def execLdI (nnn : Addr12) (s : State) : Result := .next (s.setI (absolute nnn)).advance

/-- ADD I, Vx (R171). -/
def execAddI (x : Reg) (s : State) : Result :=
  .next ((s.setI (s.indexPlus x)).setFlag (indexOverflowFlag s.i (s.getV x))).advance

/-- LD F, Vx (R172). -/
def execLdF (x : Reg) (s : State) : Result := .next (s.setI (glyphAddress (s.getV x))).advance

/-- LD B, Vx (R173): I is unchanged. -/
def execLdB (x : Reg) (s : State) : Result :=
  match firstBadAddress s.i.toNat 3 with
  | some a => .next (s.raise (.addressOutOfRange a))
  | none => .next (s.writeBytes s.i.toNat (bcdDigits (s.getV x))).advance

/-- LD [I], Vx (R174). -/
def execLdStore (x : Reg) (s : State) : Result :=
  match firstBadAddress s.i.toNat (x.toNat + 1) with
  | some a => .next (s.raise (.addressOutOfRange a))
  | none => .next ((s.writeBytes s.i.toNat (s.regsTo x)).setI (s.indexPast x)).advance

/-- LD Vx, [I] (R175). -/
def execLdLoad (x : Reg) (s : State) : Result :=
  match firstBadAddress s.i.toNat (x.toNat + 1) with
  | some a => .next (s.raise (.addressOutOfRange a))
  | none => .next ((s.loadRegsTo x s.i.toNat).setI (s.indexPast x)).advance

end Sys2Proof.Machine
end

