-- ==== Sys2Proof/Machine/RandomKeysTimers.lean ====
section
/-! DEFINITION. Machine/RandomKeysTimers.lean: RND, the keys and the timers (45_timers_keys_random.md, R210 to R217). -/

namespace Sys2Proof.Machine

/-- RND Vx, NN (R210): this step's random byte, masked. -/
def execRnd (x : Reg) (nn : Byte) (s : State) : Result := .next (s.setV x (s.rnd &&& nn)).advance

/-- The skip on a key's state, or KeyIndexOutOfRange (R211, R212, R217); the key skips when it is `wanted`. -/
def State.skipOnKey (s : State) (x : Reg) (wanted : Bool) : State :=
  match keyIndex s.params.keyIndexPolicy (s.getV x) with
  | none => s.raise (.keyIndexOutOfRange (s.getV x))
  | some k => s.skipIf (s.keyPressed k == wanted)

/-- SKP Vx (R211). -/
def execSkp (x : Reg) (s : State) : Result := .next (s.skipOnKey x true)

/-- SKNP Vx (R212). -/
def execSknp (x : Reg) (s : State) : Result := .next (s.skipOnKey x false)

/-- LD Vx, DT (R213): the value before this step's tick. -/
def execLdVxDt (x : Reg) (s : State) : Result := .next (s.setV x s.dt).advance

/-- LD Vx, K (R214): pc stays while no key is pressed; the next step executes the word again. -/
def execLdVxK (x : Reg) (s : State) : Result :=
  match s.awaitedKey with
  | none => .next s
  | some k => .next (s.setV x (BitVec.ofNat 8 k.val)).advance

/-- LD DT, Vx (R215). -/
def execLdDtVx (x : Reg) (s : State) : Result := .next (s.setDt (s.getV x)).advance

/-- LD ST, Vx (R216). -/
def execLdStVx (x : Reg) (s : State) : Result := .next (s.setSt (s.getV x)).advance

end Sys2Proof.Machine
end

