-- ==== Sys2Proof/Machine/Step.lean ====
section
/-! DEFINITION. Machine/Step.lean: one step (R101), and the placing of an instruction where the next step fetches. -/

namespace Sys2Proof.Machine

/-- `step()` (R101). A machine that has faulted takes no step (R100): the answer is the recorded fault. Otherwise the
inputs are sampled, one instruction is fetched, decoded and executed, and a step that did not fault ticks the timers. -/
def step (s : State) : Host.Outcome State Fault Refusal :=
  match s.fault with
  | some r => .fault r.cause
  | none =>
    match s.beginStep.fetchInstr with
    | .error f => .next (s.beginStep.raise f)
    | .ok i => finishStep (exec i s.beginStep)

/-- The state with the instruction whose bits, as the opcode table numbers them, are `w` stored at pc, where the next step
fetches (R52). It stands for the loading of a program (R262; log 12). -/
def State.withFetchWord (s : State) (nbits w : Nat) : State := s.placeAtPc (tableBytes nbits w)

end Sys2Proof.Machine
end

