-- ==== Sys2Proof/Safety.lean ====
section
/-! DEFINITION. Safety.lean: what counts as a safe step, the invariants of the machine, and the terms the statements use:
the registers an instruction may write (R22), its pc rule (R25), the pixels a sprite covers (R193, R194). -/

namespace Sys2Proof.Machine

/-- A state in which no fault is recorded: the machine takes its next step (R100). -/
def State.Running (s : State) : Prop := s.fault = none

/-- Memory in its canonical form: addresses strictly rise, all below 4096, and no cell holds what an unlisted address
reads as. -/
def State.MemCanonical (s : State) : Prop := Memory.wf s.params.font s.mem = true

/-- The bounds of R26: pc is at most 0x10FE, and every return address is that of an instruction that was fetched, so at
most 0xFFE (R121). -/
def State.PcBounded (s : State) : Prop :=
  s.pc.toNat ≤ 0x10FE ∧ ∀ k : Fin 16, (s.stack[k]).toNat ≤ 0xFFE

/-- The word of the two bytes at pc, high byte first (R51, R52). -/
abbrev State.wordAtPc (s : State) : Word := wordOfBytes (s.readByte s.pc.toNat) (s.readByte (s.pc.toNat + 1))

/-- The instruction at pc: the word fetched decodes to it (R52, R78). -/
def State.Fetches (s : State) (i : Instr) : Prop :=
  (s.pc.getLsbD 0 = false ∨ s.params.oddPcPolicy = .fetch) ∧ s.pc.toNat + 1 ≤ 0xFFF ∧
    decodeWord s.params.looseSkipReg s.wordAtPc = .ok i

/-- R194, value by value: the sprite's pixel `k` columns right of and `r` rows below the start `(x0, y0)` lands on `p`. The
coordinates of `p` are below 64 and 32, so the equations of `clip` and `wrapStart` also drop what falls off the screen. -/
def LandsOn (edge : DrawEdge) (x0 y0 k r : Nat) (p : Pixel) : Prop :=
  match edge with
  | .clip => x0 + k = p.x.val ∧ y0 + r = p.y.val
  | .wrapStart => x0 % 64 + k = p.x.val ∧ y0 % 32 + r = p.y.val
  | .wrapAll => (x0 + k) % 64 = p.x.val ∧ (y0 + r) % 32 = p.y.val

/-- A sprite of `n` rows whose top-left pixel is at `(x0, y0)` has a set bit that lands on the pixel: the bit of row `r`
and column `k`, bit 7 leftmost (R193), at its place on the screen (R194). -/
def State.SpriteCovers (s : State) (x0 y0 n : Nat) (p : Pixel) : Prop :=
  ∃ r k : Nat, r < n ∧ k < 8 ∧ (s.readByte (s.i.toNat + r)).getLsbD (7 - k) = true ∧
    LandsOn s.params.drawEdge x0 y0 k r p

/-- The address is the first at or beyond 0x1000 among the `n` from `base` up (R56, R233). -/
def FirstBad (base n a : Nat) : Prop :=
  base ≤ a ∧ a < base + n ∧ memSize ≤ a ∧ ∀ b, base ≤ b → b < a → b < memSize

/-! ## Frames -/

/-- Nothing but pc changes: every register, flag, timer, stack entry and pixel is as before, and every byte of memory. -/
def KeptButPc (s t : State) : Prop := t = { s with pc := t.pc } ∧ ∀ a, t.readByte a = s.readByte a

/-- Nothing but the general registers and pc changes, and every byte of memory is as before. -/
def KeptButRegs (s t : State) : Prop := t = { s with v := t.v, pc := t.pc } ∧ ∀ a, t.readByte a = s.readByte a

/-- The instruction completes with the value in Vx, every other register and everything else as before, pc advanced by 2. -/
def WritesReg (i : Instr) (x : Reg) (value : Byte) (s : State) : Prop :=
  ∃ t, exec i s = .next t ∧ t.getV x = value ∧ (∀ q, q ≠ x → t.getV q = s.getV q) ∧ t.pc = s.pc + 2 ∧
    KeptButRegs s t

/-- The instruction completes with the flag in VF and, unless Vx is VF, the result in Vx; every other register and
everything else as before, pc advanced by 2. -/
def WritesRegAndFlag (i : Instr) (x : Reg) (result flag : Nat) (s : State) : Prop :=
  ∃ t, exec i s = .next t ∧ (x ≠ vf → (t.getV x).toNat = result) ∧ (t.getV vf).toNat = flag ∧
    (∀ q, q ≠ x → q ≠ vf → t.getV q = s.getV q) ∧ t.pc = s.pc + 2 ∧ KeptButRegs s t

/-- The instruction completes with pc advanced by 4 when the condition holds and by 2 when not, all else as before. -/
def SkipsWhen (i : Instr) (condition : Prop) (s : State) : Prop :=
  ∃ t, exec i s = .next t ∧ (condition → t.pc = s.pc + 4) ∧ (¬condition → t.pc = s.pc + 2) ∧ KeptButPc s t

/-- The state a fault leaves: the record written, no tone, nothing else changed (R232). -/
def State.faulted (s : State) (f : Fault) : State := { s with fault := some ⟨f, s.pc⟩, tone := false }

/-- R230, R233: the code and the info that a fault raised by a step of `s` records, and what of `s` it is raised for. Code 7
is the loader's and no step's (R238). -/
def State.MayRecord (s : State) (code info : Nat) : Prop :=
  (code = 1 ∧ info = s.wordAtPc.toNat) ∨
    (code = 2 ∧ (0xFFF < s.pc.toNat + 1 ∧ info = s.pc.toNat ∨ info = max s.i.toNat 0x1000)) ∨
    (code = 3 ∧ s.pc.getLsbD 0 = true ∧ info = s.pc.toNat) ∨
    (code = 4 ∧ s.sp.val = 16 ∧ info = s.pc.toNat) ∨
    (code = 5 ∧ s.sp.val = 0 ∧ info = s.pc.toNat) ∨
    (code = 6 ∧ 0xF < info ∧ info = (s.getV (fieldX s.wordAtPc)).toNat)

end Sys2Proof.Machine

namespace Sys2Proof

open Machine

/-! ## Which instructions write what (R23, R27 to R30, R34, R39) -/

/-- The instructions that write I (R23). -/
def Instr.writesIndex : Instr → Bool
  | .ldI _ | .addI _ | .ldF _ | .ldStore _ | .ldLoad _ => true
  | _ => false

/-- The instructions that store to memory (R50). -/
def Instr.writesMemory : Instr → Bool
  | .ldB _ | .ldStore _ => true
  | _ => false

/-- The instructions that write the framebuffer and the dirty flag (R190). -/
def Instr.writesFrame : Instr → Bool
  | .cls | .drw _ _ _ => true
  | _ => false

/-- The instruction that writes the stack array (R27). -/
def Instr.writesStack : Instr → Bool
  | .call _ => true
  | _ => false

/-- The instructions that write sp (R28). -/
def Instr.writesSp : Instr → Bool
  | .call _ | .ret => true
  | _ => false

/-- The instruction that writes DT (R29). -/
def Instr.writesDt : Instr → Bool
  | .ldDtVx _ => true
  | _ => false

/-- The instruction that writes ST (R30). -/
def Instr.writesSt : Instr → Bool
  | .ldStVx _ => true
  | _ => false

/-! ## Registers written and the pc rule -/

/-- Whether an instruction may write a general register (R22). -/
def Instr.mayWrite (i : Instr) (r : Reg) : Bool :=
  match i with
  | .ldImm x _ | .addImm x _ | .ldReg x _ | .orReg x _ | .andReg x _ | .xorReg x _ | .rnd x _ | .ldVxDt x | .ldVxK x =>
    r == x
  | .addReg x _ | .sub x _ | .shr x _ | .subn x _ | .shl x _ => r == x || r == vf
  | .drw _ _ _ | .addI _ => r == vf
  | .ldLoad x => decide (r.toNat ≤ x.toNat)
  | .sys _ | .cls | .ret | .jp _ | .call _ | .seImm _ _ | .sneImm _ _ | .seReg _ _ | .sneReg _ _ | .ldI _ | .jpV0 _
  | .skp _ | .sknp _ | .ldDtVx _ | .ldStVx _ | .ldF _ | .ldB _ | .ldStore _ => false

/-- The pc rule of R25 for an instruction executed in `s` without a fault: which `pc` the next state may hold. -/
def Instr.pcRule (s : State) (pc : Word) : Instr → Prop
  | .jp nnn | .call nnn => pc.toNat = nnn.toNat
  | .jpV0 nnn => pc.toNat = nnn.toNat + (s.getV 0).toNat
  | .ret => ∃ h : 0 < s.sp.val, pc = s.stack[s.sp.val - 1] + 2
  | .seImm _ _ | .sneImm _ _ | .seReg _ _ | .sneReg _ _ | .skp _ | .sknp _ => pc = s.pc + 2 ∨ pc = s.pc + 4
  | .ldVxK _ => pc = if s.keys = 0 then s.pc else s.pc + 2
  | .sys _ | .cls | .ldImm _ _ | .addImm _ _ | .ldReg _ _ | .orReg _ _ | .andReg _ _ | .xorReg _ _ | .addReg _ _
  | .sub _ _ | .shr _ _ | .subn _ _ | .shl _ _ | .ldI _ | .rnd _ _ | .drw _ _ _ | .ldVxDt _ | .ldDtVx _ | .ldStVx _
  | .addI _ | .ldF _ | .ldB _ | .ldStore _ | .ldLoad _ => pc = s.pc + 2

end Sys2Proof
end

