-- ==== Sys2Proof/Certificates/Slice0/Obligations.lean ====
section
/-! DEFINITION. Certificates/Slice0/Obligations.lean: the statements for the provers, from the numbered rules of spec/. -/

open Sys2Proof Sys2Proof.Machine

/-! ## Reset and loading -/

/-- R260: the font at 0 to 79, pc 0x200, everything else the source names zero, under every choice of the parameters. -/
def Obligations.ResetLeavesTheStatedValues : Prop :=
  State.reset = State.construct defaultParams ∧
    ∀ p : Params,
      (∀ (a : Nat) (h : a < 80), (State.construct p).readByte a = p.font[a]) ∧
        (∀ a, 80 ≤ a → (State.construct p).readByte a = 0) ∧
        (State.construct p).pc = 0x200 ∧ (∀ r, (State.construct p).getV r = 0) ∧ (State.construct p).i = 0 ∧
        (∀ k : Fin 16, (State.construct p).stack[k] = 0) ∧ (State.construct p).sp = 0 ∧ (State.construct p).dt = 0 ∧
        (State.construct p).st = 0 ∧ (∀ q, (State.construct p).fb.lit q = false) ∧ (State.construct p).dirty = false

/-- The spec's own decisions D20 and D32: no fault is recorded and no key is pressed after reset. -/
def Obligations.ResetHasNoFaultAndNoKey : Prop :=
  ∀ p : Params, (State.construct p).fault = none ∧ ∀ k : Nibble, (State.construct p).keyPressed k = false

/-- The loader (R262, R256; D25 and log 12 for the refusal; log 21 for a load over an earlier one): the image at 0x200 and
no other byte changed, or InvalidImageSize, code 7 with the length (R230, D29); a load after the first step is refused. -/
def Obligations.LoadPlacesTheImage : Prop :=
  ∀ (s : State) (image : List Byte),
    (s.steps = 0 → image.length ≤ 3584 → s.MemCanonical →
      ∃ t, s.load image = .next t ∧ (∀ (k : Nat) (h : k < image.length), t.readByte (0x200 + k) = image[k]) ∧
        (∀ a, a < 0x200 ∨ 0x200 + image.length ≤ a → t.readByte a = s.readByte a) ∧ t = { s with mem := t.mem }) ∧
    (s.steps = 0 → 3584 < image.length → ∃ f, s.load image = .fault f ∧ f = .invalidImageSize image.length ∧
      f.code = 7 ∧ f.info = image.length) ∧
    (s.steps ≠ 0 → s.load image = .refused .loadAfterFirstStep)

/-- The first word a loaded machine fetches is the image's first (R262, R263). -/
def Obligations.FirstFetchReadsTheImage : Prop :=
  ∀ (p : Params) (hi lo : Byte) (rest : List Byte), rest.length + 2 ≤ 3584 →
    ∃ t, (State.construct p).load (hi :: lo :: rest) = .next t ∧ t.fetch = .ok (wordOfBytes hi lo)

/-- An instruction placed where a reset machine fetches is the one its first step runs (log 12). -/
def Obligations.PlacedWordRunsFirst : Prop :=
  ∀ (w : Nat) (i : Instr), decodeTableWord 16 w = some i →
    step (State.reset.withFetchWord 16 w) = finishStep (exec i (State.reset.withFetchWord 16 w).beginStep)

/-! ## Encoding (the bit patterns are the conventional ones, D3; log 13) -/

/-- R78, R79: decoding an encoded well-formed instruction gives it back, and leaves the bytes after it. -/
def Obligations.DecodeOfEncodeIsTheInstruction : Prop :=
  ∀ (loose : Bool) (i : Instr) (rest : List Byte), WellFormed i →
    decode loose (encodeBytes i ++ rest) = .ok (i, rest)

/-- R78: a word that decodes is the word of a well-formed instruction; under LooseSkipReg only N of 5XYN and 9XYN is lost. -/
def Obligations.EncodeOfDecodeIsTheWord : Prop :=
  ∀ (loose : Bool) (w : Word) (i : Instr), decodeWord loose w = .ok i →
    WellFormed i ∧
      (encode i = w ∨ (loose = true ∧ fieldN w ≠ 0 ∧ ∃ x y, (i = .seReg x y ∨ i = .sneReg x y) ∧ encode i = w &&& 0xFFF0#16))

/-- R78: a word that matches a row's mask decodes to that row, CLS and RET taking precedence over SYS. -/
def Obligations.MatchingWordsDecodeToTheirRow : Prop :=
  ∀ (loose : Bool) (w : Word) (i : Instr), WellFormed i → w &&& rowMask i = rowMatch i →
    ∃ j, decodeWord loose w = .ok j ∧
      (rowMatch j = rowMatch i ∨ (rowMatch i = 0x0000#16 ∧ ((w = 0x00E0#16 ∧ j = .cls) ∨ (w = 0x00EE#16 ∧ j = .ret))))

/-- R77, R79: the words that are no instruction are exactly the listed ones, 5XYN and 9XYN with N ≠ 0 among them unless
LooseSkipReg (the spec's decision D6). -/
def Obligations.UnknownWordsAreExactlyTheListed : Prop :=
  ∀ (loose : Bool) (w : Word), decodeWord loose w = .error (.unknownOpcode w) ↔
    (loose = false ∧ (fieldOp w = 0x5#4 ∨ fieldOp w = 0x9#4) ∧ fieldN w ≠ 0x0#4) ∨
    (fieldOp w = 0x8#4 ∧ fieldN w ∈ [0x8#4, 0x9#4, 0xA#4, 0xB#4, 0xC#4, 0xD#4, 0xF#4]) ∨
    (fieldOp w = 0xE#4 ∧ fieldNN w ∉ [0x9E#8, 0xA1#8]) ∨
    (fieldOp w = 0xF#4 ∧ fieldNN w ∉ [0x07#8, 0x0A#8, 0x15#8, 0x18#8, 0x1E#8, 0x29#8, 0x33#8, 0x55#8, 0x65#8])

/-- Words of the spec's vectors (95_test_vectors.md, 2.1; T4 of 2.6) decode to what they stand for. -/
def Obligations.SpelledOutWordsDecode : Prop :=
  decodeWord false 0x00E0#16 = .ok .cls ∧ decodeWord false 0x01E0#16 = .ok (.sys 0x1E0#12) ∧
    decodeWord false 0x8AB6#16 = .ok (.shr 0xA#4 0xB#4) ∧ decodeWord false 0xD12F#16 = .ok (.drw 0x1#4 0x2#4 0xF#4) ∧
    decodeWord false 0xF365#16 = .ok (.ldLoad 0x3#4) ∧ decodeWord false 0xE59E#16 = .ok (.skp 0x5#4) ∧
    decodeWord false 0x5121#16 = .error (.unknownOpcode 0x5121#16) ∧ decodeWord true 0x5121#16 = .ok (.seReg 0x1#4 0x2#4)

/-! ## The step -/

/-- R101: when the bytes at pc decode to an instruction, the step is Execute of it after the inputs are sampled, and then
the end of the step. -/
def Obligations.StepRunsTheDecodedInstruction : Prop :=
  ∀ (s : State) (i : Instr), s.Running → s.Fetches i → step s = finishStep (exec i s.beginStep)

/-- R108, R251 to R253, D22, D36, log 5: what sampling the inputs changes: the ports, `dirty` only to acknowledge a frame. -/
def Obligations.InputsAreSampledFromThePlan : Prop :=
  ∀ s : State,
    (s.beginStep = { s with
        keys := s.beginStep.keys, rnd := s.beginStep.rnd, pick := s.beginStep.pick, dirty := s.beginStep.dirty,
        plan := s.beginStep.plan, steps := s.steps + 1 }) ∧
      (∀ turn rest, s.plan = turn :: rest →
        s.beginStep.keys = turn.keys ∧ s.beginStep.rnd = turn.rnd ∧ s.beginStep.pick = turn.pick ∧
          s.beginStep.dirty = (s.dirty && !turn.ackDirty) ∧ s.beginStep.plan = rest) ∧
      (s.plan = [] → s.beginStep.keys = s.keys ∧ s.beginStep.dirty = s.dirty ∧ s.beginStep.plan = [])

/-- R106: a step whose instruction did not fault ends by ticking the sound timer, and emits the tone exactly when ST was 1
before the tick. -/
def Obligations.CompletedStepTicksTheSoundTimer : Prop :=
  ∀ (s t : State) (i : Instr), s.Running → s.Fetches i → exec i s.beginStep = .next t → t.fault = none →
    ∃ u, step s = .next u ∧ u.st.toNat = t.st.toNat - 1 ∧ (u.tone = true ↔ t.st = 1)

/-- R105 (which the spec derives), R110, R101: such a step ticks the delay timer as Execute left it, and changes nothing
else after Execute but the two timers and the tone. -/
def Obligations.CompletedStepTicksTheDelayTimer : Prop :=
  ∀ (s t : State) (i : Instr), s.Running → s.Fetches i → exec i s.beginStep = .next t → t.fault = none →
    ∃ u, step s = .next u ∧ u.dt.toNat = t.dt.toNat - 1 ∧ u = { t with dt := u.dt, st := u.st, tone := u.tone }

/-- R107, R230, R232, the spec's decisions D20, D29: a step that faults commits nothing but the record: the code and info
of R230, and the pc of the faulting instruction; no timer ticks and no tone is emitted. -/
def Obligations.FaultingStepCommitsOnlyTheRecord : Prop :=
  ∀ s u : State, step s = .next u → u.fault ≠ none → ∃ f, u = s.beginStep.faulted f ∧ s.MayRecord f.code f.info

/-- R52, R79, R239, the spec's decisions D15, D17, D30: the faults of fetch and decode, in their order. -/
def Obligations.FetchAndDecodeFaultInOrder : Prop :=
  ∀ s : State, s.Running →
    (s.pc.getLsbD 0 = true → s.params.oddPcPolicy = .fault →
      step s = .next (s.beginStep.faulted (.misalignedFetch s.pc))) ∧
    ((s.pc.getLsbD 0 = false ∨ s.params.oddPcPolicy = .fetch) → 0xFFF < s.pc.toNat + 1 →
      step s = .next (s.beginStep.faulted (.addressOutOfRange s.pc.toNat))) ∧
    (∀ w e, (s.pc.getLsbD 0 = false ∨ s.params.oddPcPolicy = .fetch) → s.pc.toNat + 1 ≤ 0xFFF →
      w = wordOfBytes (s.readByte s.pc.toNat) (s.readByte (s.pc.toNat + 1)) →
      decodeWord s.params.looseSkipReg w = .error e →
      step s = .next (s.beginStep.faulted (.unknownOpcode w)))

/-- R100, the spec's decision D20, log 2: a machine that has faulted takes no step, and the only stop is its recorded fault. -/
def Obligations.OnlyAHaltedMachineStops : Prop :=
  ∀ s : State, (∀ r, step s ≠ .refused r) ∧ ∀ f, step s = .fault f ↔ ∃ r, s.fault = some r ∧ r.cause = f

/-- R111, R271: every instruction completes its step in every state, with a next state (a fault's record included). -/
def Obligations.EveryInstructionAnswersANextState : Prop :=
  ∀ (i : Instr) (s : State), ∃ t, exec i s = .next t

/-! ## Control flow -/

/-- R120, the spec's decision D5: SYS raises UnknownOpcode of its word, or does nothing but advance, by SysPolicy. -/
def Obligations.SysFollowsItsPolicy : Prop :=
  ∀ (nnn : Addr12) (s : State),
    (s.params.sysPolicy = .fault → ∃ w : Word, w.toNat = nnn.toNat ∧
      exec (.sys nnn) s = .next (s.faulted (.unknownOpcode w))) ∧
    (s.params.sysPolicy = .nop → ∃ t, exec (.sys nnn) s = .next t ∧ t.pc = s.pc + 2 ∧ KeptButPc s t)

/-- R122. -/
def Obligations.JumpSetsPc : Prop :=
  ∀ (nnn : Addr12) (s : State), ∃ t, exec (.jp nnn) s = .next t ∧ t.pc.toNat = nnn.toNat ∧ KeptButPc s t

/-- R128, the spec's decision D33: the target is NNN + V0, neither masked nor wrapped. -/
def Obligations.JumpIndexedAddsV0 : Prop :=
  ∀ (nnn : Addr12) (s : State), ∃ t, exec (.jpV0 nnn) s = .next t ∧
    t.pc.toNat = nnn.toNat + (s.getV 0x0#4).toNat ∧ KeptButPc s t

/-- R123: CALL pushes its own address, for fewer than 16 active frames. -/
def Obligations.CallPushesItsOwnAddress : Prop :=
  ∀ (nnn : Addr12) (s : State), s.sp.val < 16 → ∃ t, exec (.call nnn) s = .next t ∧
    t.sp.val = s.sp.val + 1 ∧ t.pc.toNat = nnn.toNat ∧
    (∀ k : Fin 16, t.stack[k] = if k.val = s.sp.val then s.pc else s.stack[k]) ∧
    t = { s with stack := t.stack, sp := t.sp, pc := t.pc } ∧ ∀ a, t.readByte a = s.readByte a

/-- R121: RET resumes two bytes past the popped address, which keeps its place in the array (D24). -/
def Obligations.RetResumesPastTheCall : Prop :=
  ∀ (s : State) (h : 0 < s.sp.val), ∃ t, exec .ret s = .next t ∧ t.sp.val + 1 = s.sp.val ∧
    t.pc = s.stack[s.sp.val - 1] + 2 ∧ t = { s with sp := t.sp, pc := t.pc } ∧ ∀ a, t.readByte a = s.readByte a

/-- R129: a CALL and the RET that matches it: in any state that a routine's body may have made, with the frames the CALL
left and its entry on top, RET resumes after the CALL with the frames from before it, and changes nothing else. -/
def Obligations.CallThenRetResumesAfterTheCall : Prop :=
  ∀ (nnn : Addr12) (s : State) (h : s.sp.val < 16), ∃ t, exec (.call nnn) s = .next t ∧
    ∀ u : State, u.sp = t.sp → u.stack[s.sp.val] = t.stack[s.sp.val] →
      ∃ w, exec .ret u = .next w ∧ w.pc = s.pc + 2 ∧ w.sp = s.sp ∧ w = { u with sp := w.sp, pc := w.pc } ∧
        ∀ a, w.readByte a = u.readByte a

/-- R235, R236, the spec's decisions D18, D19: the 17th frame and the return from none fault, with pc. -/
def Obligations.StackOverflowAndUnderflowFault : Prop :=
  ∀ (nnn : Addr12) (s : State),
    (s.sp.val = 16 → exec (.call nnn) s = .next (s.faulted (.stackOverflow s.pc))) ∧
    (s.sp.val = 0 → exec .ret s = .next (s.faulted (.stackUnderflow s.pc)))

/-- R124, R125. -/
def Obligations.ImmediateSkipsCompare : Prop :=
  ∀ (x : Reg) (nn : Byte) (s : State),
    SkipsWhen (.seImm x nn) (s.getV x = nn) s ∧ SkipsWhen (.sneImm x nn) (s.getV x ≠ nn) s

/-- R126, R127 (their execution). -/
def Obligations.RegisterSkipsCompare : Prop :=
  ∀ (x y : Reg) (s : State),
    SkipsWhen (.seReg x y) (s.getV x = s.getV y) s ∧ SkipsWhen (.sneReg x y) (s.getV x ≠ s.getV y) s

/-! ## Registers and ALU -/

/-- R140, R141: LD Vx, NN and ADD Vx, NN, which writes no flag: VF is unchanged unless it is the destination. -/
def Obligations.ImmediateLoadAndAdd : Prop :=
  ∀ (x : Reg) (nn : Byte) (s : State),
    WritesReg (.ldImm x nn) x nn s ∧
      WritesReg (.addImm x nn) x (BitVec.ofNat 8 (((s.getV x).toNat + nn.toNat) % 256)) s

/-- R142 to R145, the spec's decision D7: copy and logic write Vx alone; VF is unchanged unless it is the destination. -/
def Obligations.CopyAndLogicWriteNoFlag : Prop :=
  ∀ (x y : Reg) (s : State),
    WritesReg (.ldReg x y) x (s.getV y) s ∧ WritesReg (.orReg x y) x (s.getV x ||| s.getV y) s ∧
      WritesReg (.andReg x y) x (s.getV x &&& s.getV y) s ∧ WritesReg (.xorReg x y) x (s.getV x ^^^ s.getV y) s

/-- R151: unsigned results modulo 256; the carry is bit 8 of the sum, the flag of a difference is the complement of the
borrow, a shift by one puts the bit shifted out into VF; ADD Vx, NN writes no flag. Vx is not VF here: for VF see
Obligations.FlagRemainsInVf and Obligations.ImmediateLoadAndAdd. -/
def Obligations.ArithmeticWrapsAndSetsVf : Prop :=
  ∀ (x y : Reg) (nn : Byte) (s : State), x ≠ vf →
    WritesReg (.addImm x nn) x (BitVec.ofNat 8 (((s.getV x).toNat + nn.toNat) % 256)) s ∧
      WritesRegAndFlag (.addReg x y) x (((s.getV x).toNat + (s.getV y).toNat) % 256)
        (((s.getV x).toNat + (s.getV y).toNat) / 256) s ∧
      WritesRegAndFlag (.sub x y) x ((256 + (s.getV x).toNat - (s.getV y).toNat) % 256)
        (if (s.getV y).toNat ≤ (s.getV x).toNat then 1 else 0) s ∧
      WritesRegAndFlag (.subn x y) x ((256 + (s.getV y).toNat - (s.getV x).toNat) % 256)
        (if (s.getV x).toNat ≤ (s.getV y).toNat then 1 else 0) s ∧
      WritesRegAndFlag (.shr x y) x ((s.shiftOperand x y).toNat / 2) ((s.shiftOperand x y).toNat % 2) s ∧
      WritesRegAndFlag (.shl x y) x ((s.shiftOperand x y).toNat * 2 % 256) ((s.shiftOperand x y).toNat / 128) s

/-- R152, the spec's decision D8: with VF as the destination the flag remains and the result is lost; the flag is computed
from the values read at the start. -/
def Obligations.FlagRemainsInVf : Prop :=
  ∀ (y : Reg) (s : State),
    WritesRegAndFlag (.addReg vf y) vf 0 (((s.getV vf).toNat + (s.getV y).toNat) / 256) s ∧
      WritesRegAndFlag (.sub vf y) vf 0 (if (s.getV y).toNat ≤ (s.getV vf).toNat then 1 else 0) s ∧
      WritesRegAndFlag (.subn vf y) vf 0 (if (s.getV vf).toNat ≤ (s.getV y).toNat then 1 else 0) s ∧
      WritesRegAndFlag (.shr vf y) vf 0 ((s.shiftOperand vf y).toNat % 2) s ∧
      WritesRegAndFlag (.shl vf y) vf 0 ((s.shiftOperand vf y).toNat / 128) s

/-- R148, R150, the spec's decision D9: the value shifted is Vx under `ShiftSource = Vx`, whatever Vy holds, and Vy under
`ShiftSource = Vy`; for VF as Vx too, where the flag alone remains (D8). -/
def Obligations.ShiftSourceSelectsTheOperand : Prop :=
  ∀ (x y : Reg) (s : State),
    (s.params.shiftSource = .vx →
      WritesRegAndFlag (.shr x y) x ((s.getV x).toNat / 2) ((s.getV x).toNat % 2) s ∧
        WritesRegAndFlag (.shl x y) x ((s.getV x).toNat * 2 % 256) ((s.getV x).toNat / 128) s) ∧
    (s.params.shiftSource = .vy →
      WritesRegAndFlag (.shr x y) x ((s.getV y).toNat / 2) ((s.getV y).toNat % 2) s ∧
        WritesRegAndFlag (.shl x y) x ((s.getV y).toNat * 2 % 256) ((s.getV y).toNat / 128) s)

/-! ## Index register and memory -/

/-- R170, R172: LD I, NNN and LD F, Vx, whose operand is not masked. -/
def Obligations.IndexLoadAndGlyph : Prop :=
  ∀ s : State,
    (∀ nnn, ∃ t, exec (.ldI nnn) s = .next t ∧ t.i.toNat = nnn.toNat ∧ t.pc = s.pc + 2 ∧
      t = { s with i := t.i, pc := t.pc } ∧ ∀ a, t.readByte a = s.readByte a) ∧
    (∀ x, ∃ t, exec (.ldF x) s = .next t ∧ t.i.toNat = (s.getV x).toNat * 5 ∧ t.pc = s.pc + 2 ∧
      t = { s with i := t.i, pc := t.pc } ∧ ∀ a, t.readByte a = s.readByte a)

/-- R171, the spec's decisions D8 and D16: I plus Vx modulo 2^16; VF says whether the untruncated sum passes 0xFFF. -/
def Obligations.AddToIndexSetsVfPastFff : Prop :=
  ∀ (x : Reg) (s : State), ∃ t, exec (.addI x) s = .next t ∧
    t.i.toNat = (s.i.toNat + (s.getV x).toNat) % 65536 ∧
    t.getV vf = (if 0xFFF < s.i.toNat + (s.getV x).toNat then 1 else 0) ∧ (∀ q, q ≠ vf → t.getV q = s.getV q) ∧
    t.pc = s.pc + 2 ∧ t = { s with v := t.v, i := t.i, pc := t.pc } ∧ ∀ a, t.readByte a = s.readByte a

/-- R173 (its range is the spec's decision D15): the three decimal digits at I, I+1, I+2; every other byte and I as before. -/
def Obligations.BcdStoresThreeDigits : Prop :=
  ∀ (x : Reg) (s : State), s.MemCanonical → s.i.toNat + 2 ≤ 0xFFF → ∃ t, exec (.ldB x) s = .next t ∧
    (t.readByte s.i.toNat).toNat = (s.getV x).toNat / 100 ∧
    (t.readByte (s.i.toNat + 1)).toNat = (s.getV x).toNat / 10 % 10 ∧
    (t.readByte (s.i.toNat + 2)).toNat = (s.getV x).toNat % 10 ∧
    (∀ a, a < s.i.toNat ∨ s.i.toNat + 2 < a → t.readByte a = s.readByte a) ∧ t.pc = s.pc + 2 ∧
    t = { s with mem := t.mem, pc := t.pc }

/-- R174 (its range is the spec's decision D15): V0 to Vx at I to I+X; every other byte as before; I moves past them. -/
def Obligations.StoreCopiesRegistersToMemory : Prop :=
  ∀ (x : Reg) (s : State), s.MemCanonical → s.i.toNat + x.toNat ≤ 0xFFF → ∃ t, exec (.ldStore x) s = .next t ∧
    (∀ r : Reg, r.toNat ≤ x.toNat → t.readByte (s.i.toNat + r.toNat) = s.getV r) ∧
    (∀ a, a < s.i.toNat ∨ s.i.toNat + x.toNat < a → t.readByte a = s.readByte a) ∧
    t.i.toNat = s.i.toNat + x.toNat + 1 ∧ t.pc = s.pc + 2 ∧ t = { s with mem := t.mem, i := t.i, pc := t.pc }

/-- R175 (its range is the spec's decision D15): V0 to Vx from I to I+X; the registers above as before; I moves past them. -/
def Obligations.LoadCopiesMemoryToRegisters : Prop :=
  ∀ (x : Reg) (s : State), s.i.toNat + x.toNat ≤ 0xFFF → ∃ t, exec (.ldLoad x) s = .next t ∧
    (∀ r : Reg, r.toNat ≤ x.toNat → t.getV r = s.readByte (s.i.toNat + r.toNat)) ∧
    (∀ r : Reg, x.toNat < r.toNat → t.getV r = s.getV r) ∧
    t.i.toNat = s.i.toNat + x.toNat + 1 ∧ t.pc = s.pc + 2 ∧
    t = { s with v := t.v, i := t.i, pc := t.pc } ∧ ∀ a, t.readByte a = s.readByte a

/-- The source's property quoted under R175: storing V0 to Vx at I and loading them from the same address, whatever the
registers held in between, gives the stored registers back. -/
def Obligations.StoreThenLoadGivesRegistersBack : Prop :=
  ∀ (x : Reg) (s : State) (w : Vector Byte 16), s.MemCanonical → s.i.toNat + x.toNat ≤ 0xFFF →
    ∃ t u, exec (.ldStore x) s = .next t ∧ exec (.ldLoad x) { t with v := w, i := s.i } = .next u ∧
      (∀ r : Reg, r.toNat ≤ x.toNat → u.getV r = s.getV r) ∧
      t.i.toNat = s.i.toNat + x.toNat + 1 ∧ u.i.toNat = s.i.toNat + x.toNat + 1

/-- R62, R266, the spec's decision D27: a word stored by LD [I], Vx is what the next fetch of it reads. -/
def Obligations.StoredWordIsFetched : Prop :=
  ∀ (x r q : Reg) (s : State), s.MemCanonical → s.i.toNat + x.toNat ≤ 0xFFF → r.toNat + 1 = q.toNat →
    q.toNat ≤ x.toNat → (s.i.toNat + r.toNat) % 2 = 0 →
    ∃ t, exec (.ldStore x) s = .next t ∧
      State.fetch { t with pc := BitVec.ofNat 16 (s.i.toNat + r.toNat) } = .ok (wordOfBytes (s.getV r) (s.getV q))

/-- R56, R233, R104, the spec's decisions D15, D35: an access that reaches 0x1000 faults with the first bad address, and
nothing is written. -/
def Obligations.OutOfRangeAccessFaults : Prop :=
  ∀ (x y : Reg) (n : Nibble) (s : State),
    (0xFFF < s.i.toNat + 2 → ∃ a, FirstBad s.i.toNat 3 a ∧ exec (.ldB x) s = .next (s.faulted (.addressOutOfRange a))) ∧
    (0xFFF < s.i.toNat + x.toNat → ∃ a, FirstBad s.i.toNat (x.toNat + 1) a ∧
      exec (.ldStore x) s = .next (s.faulted (.addressOutOfRange a)) ∧
      exec (.ldLoad x) s = .next (s.faulted (.addressOutOfRange a))) ∧
    (0 < n.toNat → 0xFFF < s.i.toNat + n.toNat - 1 → ∃ a, FirstBad s.i.toNat n.toNat a ∧
      exec (.drw x y n) s = .next (s.faulted (.addressOutOfRange a)))

/-! ## Display -/

/-- R191. -/
def Obligations.ClsClearsTheScreen : Prop :=
  ∀ s : State, ∃ t, exec .cls s = .next t ∧ (∀ p, t.fb.lit p = false) ∧ t.dirty = true ∧ t.pc = s.pc + 2 ∧
    t = { s with fb := t.fb, dirty := true, pc := t.pc } ∧ ∀ a, t.readByte a = s.readByte a

/-- R192 to R195, the spec's decisions D10, D11, D12: each pixel is the old one XOR whether the sprite covers it; VF is 1
exactly when a covered pixel was lit, else 0; `dirty` is set; which pixels are covered is R194's arithmetic, spelled out for
each value of DrawEdge in `LandsOn`. -/
def Obligations.DrawXorsTheSprite : Prop :=
  ∀ (x y : Reg) (n : Nibble) (s : State), (n.toNat = 0 ∨ s.i.toNat + n.toNat - 1 ≤ 0xFFF) →
    ∃ t, exec (.drw x y n) s = .next t ∧
      (∀ p, t.fb.lit p = true ↔
        Xor (s.fb.lit p = true) (s.SpriteCovers (s.getV x).toNat (s.getV y).toNat n.toNat p)) ∧
      ((∃ p, s.SpriteCovers (s.getV x).toNat (s.getV y).toNat n.toNat p ∧ s.fb.lit p = true) → t.getV vf = 1) ∧
      ((∀ p, s.SpriteCovers (s.getV x).toNat (s.getV y).toNat n.toNat p → s.fb.lit p = false) → t.getV vf = 0) ∧
      (∀ q, q ≠ vf → t.getV q = s.getV q) ∧ t.dirty = true ∧ t.pc = s.pc + 2 ∧
      t = { s with v := t.v, fb := t.fb, dirty := true, pc := t.pc } ∧ ∀ a, t.readByte a = s.readByte a

/-- R192: drawing the same sprite twice at the same place restores every pixel; over unlit pixels the second draw sets VF
exactly when the sprite has a set bit on the screen. -/
def Obligations.DrawingTwiceRestoresTheScreen : Prop :=
  ∀ (x y : Reg) (n : Nibble) (s t : State), (n.toNat = 0 ∨ s.i.toNat + n.toNat - 1 ≤ 0xFFF) →
    exec (.drw x y n) s = .next t → t.getV x = s.getV x → t.getV y = s.getV y →
    ∃ u, exec (.drw x y n) t = .next u ∧ u.fb = s.fb ∧
      ((∀ p, s.SpriteCovers (s.getV x).toNat (s.getV y).toNat n.toNat p → s.fb.lit p = false) →
        (u.getV vf = 1 ↔ ∃ p, s.SpriteCovers (s.getV x).toNat (s.getV y).toNat n.toNat p))

/-- R194, the spec's decision D10: under `clip` a sprite that starts off the screen draws nothing and sets no flag. -/
def Obligations.ClippedStartDrawsNothing : Prop :=
  ∀ (x y : Reg) (n : Nibble) (s : State), s.params.drawEdge = .clip →
    (n.toNat = 0 ∨ s.i.toNat + n.toNat - 1 ≤ 0xFFF) → (64 ≤ (s.getV x).toNat ∨ 32 ≤ (s.getV y).toNat) →
    ∃ t, exec (.drw x y n) s = .next t ∧ t.fb = s.fb ∧ t.getV vf = 0 ∧ t.dirty = true

/-- R196: CLS and DRW, unless it faults, set `dirty`; no other instruction writes it, or a pixel; no instruction reads it. -/
def Obligations.OnlyClsAndDrwSetDirty : Prop :=
  ∀ (i : Instr) (s t : State), s.Running → exec i s = .next t →
    (i.writesFrame = true → t.fault = none → t.dirty = true) ∧
    (i.writesFrame = false → t.dirty = s.dirty ∧ t.fb = s.fb) ∧
    (∀ d, ∃ u, exec i { s with dirty := d } = .next u ∧ u = { t with dirty := u.dirty })

/-! ## Random, keys, timers -/

/-- R210, the spec's decision D21: Vx becomes this step's random byte, masked. The byte is an input: any value. -/
def Obligations.RndMasksTheRandomByte : Prop :=
  ∀ (x : Reg) (nn : Byte) (s : State), WritesReg (.rnd x nn) x (s.rnd &&& nn) s

/-- R211, R212, R217, the spec's decision D13: the skips on the key Vx names, Vx itself, or its low nibble under `mask`. -/
def Obligations.KeySkipsTestTheKey : Prop :=
  ∀ (x : Reg) (s : State), ((s.getV x).toNat ≤ 0xF ∨ s.params.keyIndexPolicy = .mask) →
    SkipsWhen (.skp x) (s.keys.getLsbD ((s.getV x).toNat % 16) = true) s ∧
      SkipsWhen (.sknp x) (s.keys.getLsbD ((s.getV x).toNat % 16) = false) s

/-- R237, the spec's decision D13: a key index above 0xF faults under `KeyIndexPolicy = fault`. -/
def Obligations.KeyIndexAboveFFaults : Prop :=
  ∀ (x : Reg) (s : State), 0xF < (s.getV x).toNat → s.params.keyIndexPolicy = .fault →
    exec (.skp x) s = .next (s.faulted (.keyIndexOutOfRange (s.getV x))) ∧
      exec (.sknp x) s = .next (s.faulted (.keyIndexOutOfRange (s.getV x)))

/-- R213: LD Vx, DT reads DT before the tick of its own step. -/
def Obligations.DelayTimerIsReadBeforeTheTick : Prop :=
  ∀ (x : Reg) (s : State), WritesReg (.ldVxDt x) x s.dt s ∧
    (s.Running → s.Fetches (.ldVxDt x) →
      ∃ u, step s = .next u ∧ u.getV x = s.dt ∧ u.dt.toNat = s.dt.toNat - 1 ∧ u.pc = s.pc + 2)

/-- R215, R216: LD DT, Vx and LD ST, Vx write the timer, and the tick of the same step follows: Vx − 1 at its end (0 for 0),
and the tone in that step exactly for Vx = 1. -/
def Obligations.TimerWritesThenTick : Prop :=
  ∀ (x : Reg) (s : State),
    (∃ t, exec (.ldDtVx x) s = .next t ∧ t.dt = s.getV x ∧ t.pc = s.pc + 2 ∧ t = { s with dt := t.dt, pc := t.pc } ∧
      ∀ a, t.readByte a = s.readByte a) ∧
    (∃ t, exec (.ldStVx x) s = .next t ∧ t.st = s.getV x ∧ t.pc = s.pc + 2 ∧ t = { s with st := t.st, pc := t.pc } ∧
      ∀ a, t.readByte a = s.readByte a) ∧
    (s.Running → s.Fetches (.ldDtVx x) → ∃ u, step s = .next u ∧ u.dt.toNat = (s.getV x).toNat - 1) ∧
    (s.Running → s.Fetches (.ldStVx x) →
      ∃ u, step s = .next u ∧ u.st.toNat = (s.getV x).toNat - 1 ∧ (u.tone = true ↔ s.getV x = 1))

/-- R214, R111, R105: with no key pressed LD Vx, K changes nothing, and its step only ticks the timers. -/
def Obligations.AwaitKeyWaitsWhileTimersTick : Prop :=
  ∀ (x : Reg) (s : State),
    (s.keys = 0 → exec (.ldVxK x) s = .next s) ∧
    (s.Running → s.Fetches (.ldVxK x) → s.beginStep.keys = 0 →
      ∃ u, step s = .next u ∧ u.dt.toNat = s.dt.toNat - 1 ∧ u.st.toNat = s.st.toNat - 1 ∧ (u.tone = true ↔ s.st = 1) ∧
        u = { s.beginStep with dt := u.dt, st := u.st, tone := u.tone })

/-- R214, the spec's decision D14: with a key pressed LD Vx, K stores a pressed key, the lowest under `lowestPressed`. -/
def Obligations.AwaitKeyStoresAPressedKey : Prop :=
  ∀ (x : Reg) (s : State), s.keys ≠ 0 →
    ∃ k : Fin 16, s.keys.getLsbD k.val = true ∧ WritesReg (.ldVxK x) x (BitVec.ofNat 8 k.val) s ∧
      (s.params.keySelect = .lowestPressed → ∀ j : Fin 16, j < k → s.keys.getLsbD j.val = false)

/-- R214, the spec's decision D14, log 7: under `anyPressed` every pressed key is stored for some draw. -/
def Obligations.EveryPressedKeyMayBeStored : Prop :=
  ∀ (x : Reg) (s : State) (k : Fin 16), s.params.keySelect = .anyPressed → s.keys.getLsbD k.val = true →
    ∃ d : Fin 16, WritesReg (.ldVxK x) x (BitVec.ofNat 8 k.val) { s with pick := d }

/-! ## The whole machine -/

/-- R25: how each instruction that does not fault advances pc. -/
def Obligations.EveryInstructionObeysItsPcRule : Prop :=
  ∀ (i : Instr) (s t : State), s.Running → exec i s = .next t → t.fault = none → i.pcRule s t.pc

/-- R22 (a table the spec derives from its rules), R21: an instruction writes no general register but the listed ones. -/
def Obligations.OnlyListedRegistersAreWritten : Prop :=
  ∀ (i : Instr) (s t : State) (r : Reg), exec i s = .next t → i.mayWrite r = false → t.getV r = s.getV r

/-- R23, R27 to R30, R36, R39, R50: I, the stack, sp, the timers and memory are written by the listed instructions alone, and
the input ports, the parameters and the model's own fields by none. -/
def Obligations.OnlyListedInstructionsWriteState : Prop :=
  ∀ (i : Instr) (s t : State), exec i s = .next t →
    (i.writesIndex = false → t.i = s.i) ∧ (i.writesStack = false → t.stack = s.stack) ∧
    (i.writesSp = false → t.sp = s.sp) ∧ (i.writesDt = false → t.dt = s.dt) ∧ (i.writesSt = false → t.st = s.st) ∧
    (i.writesMemory = false → ∀ a, t.readByte a = s.readByte a) ∧
    t.keys = s.keys ∧ t.rnd = s.rnd ∧ t.params = s.params ∧ t.pick = s.pick ∧ t.plan = s.plan ∧ t.steps = s.steps

/-- R30: no instruction reads ST: with another value in it, the next state differs in ST alone. -/
def Obligations.NoInstructionReadsTheSoundTimer : Prop :=
  ∀ (i : Instr) (s t : State) (b : Byte), exec i s = .next t →
    ∃ u, exec i { s with st := b } = .next u ∧ u = { t with st := u.st }

/-- Every step keeps memory in its canonical form. -/
def Obligations.StepKeepsMemoryCanonical : Prop :=
  ∀ s t : State, s.MemCanonical → step s = .next t → t.MemCanonical

/-- R26 (the bound is the spec's decision D33), R121: every step keeps pc at most 0x10FE and every return address at most
0xFFE, so that no 16-bit wrap of pc occurs. -/
def Obligations.StepKeepsPcBounded : Prop :=
  ∀ s t : State, s.PcBounded → step s = .next t → t.PcBounded

/-- Both invariants hold after reset, under every choice of the parameters. -/
def Obligations.InvariantsHoldAtReset : Prop :=
  ∀ p : Params, (State.construct p).MemCanonical ∧ (State.construct p).PcBounded
end

