-- ==== Sys2Proof/Laws/Decode.lean ====
section
/-! SUPPORT. Laws/Decode.lean: the fields of a word written field by field (R71), in the three shapes an instruction has. -/

namespace Sys2Proof

variable (op x y n : Nibble) (nn : Byte) (nnn : Addr12)

/-! ## The bits of a word -/

theorem bit_opNNN (i : Nat) : (op ++ nnn : Word).getLsbD i = if i < 12 then nnn.getLsbD i else op.getLsbD (i - 12) := by
  have h : (op ++ nnn : Word).getLsbD i = (op ++ nnn).getLsbD i := rfl
  rw [h, BitVec.getLsbD_append]

theorem bit_opXNN (i : Nat) : (op ++ x ++ nn : Word).getLsbD i =
    if i < 8 then nn.getLsbD i else if i < 12 then x.getLsbD (i - 8) else op.getLsbD (i - 12) := by
  have h : (op ++ x ++ nn : Word).getLsbD i = (op ++ x ++ nn).getLsbD i := rfl
  rw [h, BitVec.getLsbD_append, BitVec.getLsbD_append]
  split
  · rfl
  · by_cases h12 : i < 12
    · rw [if_pos (by omega), if_pos h12]
    · rw [if_neg (by omega), if_neg h12, Nat.sub_sub]

theorem bit_opXYN (i : Nat) : (op ++ x ++ y ++ n : Word).getLsbD i =
    if i < 4 then n.getLsbD i else if i < 8 then y.getLsbD (i - 4) else if i < 12 then x.getLsbD (i - 8)
    else op.getLsbD (i - 12) := by
  have h : (op ++ x ++ y ++ n : Word).getLsbD i = (op ++ x ++ y ++ n).getLsbD i := rfl
  rw [h, BitVec.getLsbD_append, BitVec.getLsbD_append, BitVec.getLsbD_append]
  split
  · rfl
  · by_cases h8 : i < 8
    · rw [if_pos (by omega), if_pos h8]
    · rw [if_neg (by omega), if_neg h8]
      by_cases h12 : i < 12
      · rw [if_pos (by omega), if_pos h12, Nat.sub_sub]
      · rw [if_neg (by omega), if_neg h12, Nat.sub_sub, Nat.sub_sub]

/-! ## The fields of a word -/

@[simp] theorem fieldOp_opNNN : fieldOp (op ++ nnn) = op := by
  apply BitVec.eq_of_getLsbD_eq; intro i hi; simp [fieldOp, hi, bit_opNNN]

@[simp] theorem fieldNNN_opNNN : fieldNNN (op ++ nnn) = nnn := by
  apply BitVec.eq_of_getLsbD_eq; intro i hi; simp [fieldNNN, hi, bit_opNNN]

@[simp] theorem fieldOp_opXNN : fieldOp (op ++ x ++ nn) = op := by
  apply BitVec.eq_of_getLsbD_eq; intro i hi; simp [fieldOp, hi, bit_opXNN, show ¬ 12 + i < 8 by omega]

@[simp] theorem fieldX_opXNN : fieldX (op ++ x ++ nn) = x := by
  apply BitVec.eq_of_getLsbD_eq; intro i hi; simp [fieldX, hi, bit_opXNN, show 8 + i < 12 by omega]

@[simp] theorem fieldNN_opXNN : fieldNN (op ++ x ++ nn) = nn := by
  apply BitVec.eq_of_getLsbD_eq; intro i hi; simp [fieldNN, hi, bit_opXNN]

@[simp] theorem fieldOp_opXYN : fieldOp (op ++ x ++ y ++ n) = op := by
  apply BitVec.eq_of_getLsbD_eq; intro i hi; simp [fieldOp, hi, bit_opXYN, show ¬ 12 + i < 4 by omega, show ¬ 12 + i < 8 by omega]

@[simp] theorem fieldX_opXYN : fieldX (op ++ x ++ y ++ n) = x := by
  apply BitVec.eq_of_getLsbD_eq; intro i hi
  simp [fieldX, hi, bit_opXYN, show ¬ 8 + i < 4 by omega, show 8 + i < 12 by omega]

@[simp] theorem fieldY_opXYN : fieldY (op ++ x ++ y ++ n) = y := by
  apply BitVec.eq_of_getLsbD_eq; intro i hi; simp [fieldY, hi, bit_opXYN, show 4 + i < 8 by omega]

@[simp] theorem fieldN_opXYN : fieldN (op ++ x ++ y ++ n) = n := by
  apply BitVec.eq_of_getLsbD_eq; intro i hi; simp [fieldN, hi, bit_opXYN]

/-! ## Words and their fields, words and their bytes -/

/-- A word is its family and NNN. -/
theorem word_opNNN (w : Word) : (fieldOp w ++ fieldNNN w : Word) = w := by
  apply BitVec.eq_of_getLsbD_eq; intro i hi
  rw [bit_opNNN]; simp only [fieldOp, fieldNNN, BitVec.getLsbD_extractLsb']
  split
  · next h => simp [h]
  · next h => simp [show i - 12 < 4 by omega, show 12 + (i - 12) = i by omega]

/-- A word is its family, X and NN. -/
theorem word_opXNN (w : Word) : (fieldOp w ++ fieldX w ++ fieldNN w : Word) = w := by
  apply BitVec.eq_of_getLsbD_eq; intro i hi
  rw [bit_opXNN]; simp only [fieldOp, fieldX, fieldNN, BitVec.getLsbD_extractLsb']
  split
  · next h => simp [h]
  · split
    · next h => simp [show i - 8 < 4 by omega, show 8 + (i - 8) = i by omega]
    · next h => simp [show i - 12 < 4 by omega, show 12 + (i - 12) = i by omega]

/-- A word is its family, X, Y and N. -/
theorem word_opXYN (w : Word) : (fieldOp w ++ fieldX w ++ fieldY w ++ fieldN w : Word) = w := by
  apply BitVec.eq_of_getLsbD_eq; intro i hi
  rw [bit_opXYN]; simp only [fieldOp, fieldX, fieldY, fieldN, BitVec.getLsbD_extractLsb']
  split
  · next h => simp [h]
  · split
    · next h => simp [show i - 4 < 4 by omega, show 4 + (i - 4) = i by omega]
    · split
      · next h => simp [show i - 8 < 4 by omega, show 8 + (i - 8) = i by omega]
      · next h => simp [show i - 12 < 4 by omega, show 12 + (i - 12) = i by omega]

@[simp] theorem wordOfBytes_highByte_lowByte (w : Word) : wordOfBytes (highByte w) (lowByte w) = w := by
  apply BitVec.eq_of_getLsbD_eq; intro i hi
  have h : (wordOfBytes (highByte w) (lowByte w)).getLsbD i = (highByte w ++ lowByte w).getLsbD i := rfl
  rw [h, BitVec.getLsbD_append]
  simp only [highByte, lowByte, BitVec.getLsbD_extractLsb']
  split
  · next h => simp [h]
  · next h => simp [show i - 8 < 8 by omega, show 8 + (i - 8) = i by omega]

end Sys2Proof
end

