-- ==== Sys2Proof/Laws/State.lean ====
section
/-! SUPPORT. Laws/State.lean: one lemma per field per update of the state, so that no proof unfolds a record update. -/

namespace Sys2Proof.Machine

variable (s : State)

@[simp] theorem State.writeByte_v (a : Nat) (b : Byte) : (s.writeByte a b).v = s.v := rfl
@[simp] theorem State.writeByte_i (a : Nat) (b : Byte) : (s.writeByte a b).i = s.i := rfl
@[simp] theorem State.writeByte_pc (a : Nat) (b : Byte) : (s.writeByte a b).pc = s.pc := rfl
@[simp] theorem State.writeByte_stack (a : Nat) (b : Byte) : (s.writeByte a b).stack = s.stack := rfl
@[simp] theorem State.writeByte_sp (a : Nat) (b : Byte) : (s.writeByte a b).sp = s.sp := rfl
@[simp] theorem State.writeByte_dt (a : Nat) (b : Byte) : (s.writeByte a b).dt = s.dt := rfl
@[simp] theorem State.writeByte_st (a : Nat) (b : Byte) : (s.writeByte a b).st = s.st := rfl
@[simp] theorem State.writeByte_mem (a : Nat) (b : Byte) : (s.writeByte a b).mem = Memory.write s.params.font s.mem a b := rfl
@[simp] theorem State.writeByte_fb (a : Nat) (b : Byte) : (s.writeByte a b).fb = s.fb := rfl
@[simp] theorem State.writeByte_dirty (a : Nat) (b : Byte) : (s.writeByte a b).dirty = s.dirty := rfl
@[simp] theorem State.writeByte_fault (a : Nat) (b : Byte) : (s.writeByte a b).fault = s.fault := rfl
@[simp] theorem State.writeByte_keys (a : Nat) (b : Byte) : (s.writeByte a b).keys = s.keys := rfl
@[simp] theorem State.writeByte_rnd (a : Nat) (b : Byte) : (s.writeByte a b).rnd = s.rnd := rfl
@[simp] theorem State.writeByte_tone (a : Nat) (b : Byte) : (s.writeByte a b).tone = s.tone := rfl
@[simp] theorem State.writeByte_params (a : Nat) (b : Byte) : (s.writeByte a b).params = s.params := rfl
@[simp] theorem State.writeByte_pick (a : Nat) (b : Byte) : (s.writeByte a b).pick = s.pick := rfl
@[simp] theorem State.writeByte_plan (a : Nat) (b : Byte) : (s.writeByte a b).plan = s.plan := rfl
@[simp] theorem State.writeByte_steps (a : Nat) (b : Byte) : (s.writeByte a b).steps = s.steps := rfl

@[simp] theorem State.setV_v (r : Reg) (b : Byte) : (s.setV r b).v = s.v.set r.toNat b (by have := r.isLt; omega) := rfl
@[simp] theorem State.setV_i (r : Reg) (b : Byte) : (s.setV r b).i = s.i := rfl
@[simp] theorem State.setV_pc (r : Reg) (b : Byte) : (s.setV r b).pc = s.pc := rfl
@[simp] theorem State.setV_stack (r : Reg) (b : Byte) : (s.setV r b).stack = s.stack := rfl
@[simp] theorem State.setV_sp (r : Reg) (b : Byte) : (s.setV r b).sp = s.sp := rfl
@[simp] theorem State.setV_dt (r : Reg) (b : Byte) : (s.setV r b).dt = s.dt := rfl
@[simp] theorem State.setV_st (r : Reg) (b : Byte) : (s.setV r b).st = s.st := rfl
@[simp] theorem State.setV_mem (r : Reg) (b : Byte) : (s.setV r b).mem = s.mem := rfl
@[simp] theorem State.setV_fb (r : Reg) (b : Byte) : (s.setV r b).fb = s.fb := rfl
@[simp] theorem State.setV_dirty (r : Reg) (b : Byte) : (s.setV r b).dirty = s.dirty := rfl
@[simp] theorem State.setV_fault (r : Reg) (b : Byte) : (s.setV r b).fault = s.fault := rfl
@[simp] theorem State.setV_keys (r : Reg) (b : Byte) : (s.setV r b).keys = s.keys := rfl
@[simp] theorem State.setV_rnd (r : Reg) (b : Byte) : (s.setV r b).rnd = s.rnd := rfl
@[simp] theorem State.setV_tone (r : Reg) (b : Byte) : (s.setV r b).tone = s.tone := rfl
@[simp] theorem State.setV_params (r : Reg) (b : Byte) : (s.setV r b).params = s.params := rfl
@[simp] theorem State.setV_pick (r : Reg) (b : Byte) : (s.setV r b).pick = s.pick := rfl
@[simp] theorem State.setV_plan (r : Reg) (b : Byte) : (s.setV r b).plan = s.plan := rfl
@[simp] theorem State.setV_steps (r : Reg) (b : Byte) : (s.setV r b).steps = s.steps := rfl

@[simp] theorem State.setI_v (a : Word) : (s.setI a).v = s.v := rfl
@[simp] theorem State.setI_i (a : Word) : (s.setI a).i = a := rfl
@[simp] theorem State.setI_pc (a : Word) : (s.setI a).pc = s.pc := rfl
@[simp] theorem State.setI_stack (a : Word) : (s.setI a).stack = s.stack := rfl
@[simp] theorem State.setI_sp (a : Word) : (s.setI a).sp = s.sp := rfl
@[simp] theorem State.setI_dt (a : Word) : (s.setI a).dt = s.dt := rfl
@[simp] theorem State.setI_st (a : Word) : (s.setI a).st = s.st := rfl
@[simp] theorem State.setI_mem (a : Word) : (s.setI a).mem = s.mem := rfl
@[simp] theorem State.setI_fb (a : Word) : (s.setI a).fb = s.fb := rfl
@[simp] theorem State.setI_dirty (a : Word) : (s.setI a).dirty = s.dirty := rfl
@[simp] theorem State.setI_fault (a : Word) : (s.setI a).fault = s.fault := rfl
@[simp] theorem State.setI_keys (a : Word) : (s.setI a).keys = s.keys := rfl
@[simp] theorem State.setI_rnd (a : Word) : (s.setI a).rnd = s.rnd := rfl
@[simp] theorem State.setI_tone (a : Word) : (s.setI a).tone = s.tone := rfl
@[simp] theorem State.setI_params (a : Word) : (s.setI a).params = s.params := rfl
@[simp] theorem State.setI_pick (a : Word) : (s.setI a).pick = s.pick := rfl
@[simp] theorem State.setI_plan (a : Word) : (s.setI a).plan = s.plan := rfl
@[simp] theorem State.setI_steps (a : Word) : (s.setI a).steps = s.steps := rfl

@[simp] theorem State.setPc_v (a : Word) : (s.setPc a).v = s.v := rfl
@[simp] theorem State.setPc_i (a : Word) : (s.setPc a).i = s.i := rfl
@[simp] theorem State.setPc_pc (a : Word) : (s.setPc a).pc = a := rfl
@[simp] theorem State.setPc_stack (a : Word) : (s.setPc a).stack = s.stack := rfl
@[simp] theorem State.setPc_sp (a : Word) : (s.setPc a).sp = s.sp := rfl
@[simp] theorem State.setPc_dt (a : Word) : (s.setPc a).dt = s.dt := rfl
@[simp] theorem State.setPc_st (a : Word) : (s.setPc a).st = s.st := rfl
@[simp] theorem State.setPc_mem (a : Word) : (s.setPc a).mem = s.mem := rfl
@[simp] theorem State.setPc_fb (a : Word) : (s.setPc a).fb = s.fb := rfl
@[simp] theorem State.setPc_dirty (a : Word) : (s.setPc a).dirty = s.dirty := rfl
@[simp] theorem State.setPc_fault (a : Word) : (s.setPc a).fault = s.fault := rfl
@[simp] theorem State.setPc_keys (a : Word) : (s.setPc a).keys = s.keys := rfl
@[simp] theorem State.setPc_rnd (a : Word) : (s.setPc a).rnd = s.rnd := rfl
@[simp] theorem State.setPc_tone (a : Word) : (s.setPc a).tone = s.tone := rfl
@[simp] theorem State.setPc_params (a : Word) : (s.setPc a).params = s.params := rfl
@[simp] theorem State.setPc_pick (a : Word) : (s.setPc a).pick = s.pick := rfl
@[simp] theorem State.setPc_plan (a : Word) : (s.setPc a).plan = s.plan := rfl
@[simp] theorem State.setPc_steps (a : Word) : (s.setPc a).steps = s.steps := rfl

@[simp] theorem State.advance_v : s.advance.v = s.v := rfl
@[simp] theorem State.advance_i : s.advance.i = s.i := rfl
@[simp] theorem State.advance_pc : s.advance.pc = s.pc + 2 := rfl
@[simp] theorem State.advance_stack : s.advance.stack = s.stack := rfl
@[simp] theorem State.advance_sp : s.advance.sp = s.sp := rfl
@[simp] theorem State.advance_dt : s.advance.dt = s.dt := rfl
@[simp] theorem State.advance_st : s.advance.st = s.st := rfl
@[simp] theorem State.advance_mem : s.advance.mem = s.mem := rfl
@[simp] theorem State.advance_fb : s.advance.fb = s.fb := rfl
@[simp] theorem State.advance_dirty : s.advance.dirty = s.dirty := rfl
@[simp] theorem State.advance_fault : s.advance.fault = s.fault := rfl
@[simp] theorem State.advance_keys : s.advance.keys = s.keys := rfl
@[simp] theorem State.advance_rnd : s.advance.rnd = s.rnd := rfl
@[simp] theorem State.advance_tone : s.advance.tone = s.tone := rfl
@[simp] theorem State.advance_params : s.advance.params = s.params := rfl
@[simp] theorem State.advance_pick : s.advance.pick = s.pick := rfl
@[simp] theorem State.advance_plan : s.advance.plan = s.plan := rfl
@[simp] theorem State.advance_steps : s.advance.steps = s.steps := rfl

@[simp] theorem State.setDt_v (b : Byte) : (s.setDt b).v = s.v := rfl
@[simp] theorem State.setDt_i (b : Byte) : (s.setDt b).i = s.i := rfl
@[simp] theorem State.setDt_pc (b : Byte) : (s.setDt b).pc = s.pc := rfl
@[simp] theorem State.setDt_stack (b : Byte) : (s.setDt b).stack = s.stack := rfl
@[simp] theorem State.setDt_sp (b : Byte) : (s.setDt b).sp = s.sp := rfl
@[simp] theorem State.setDt_dt (b : Byte) : (s.setDt b).dt = b := rfl
@[simp] theorem State.setDt_st (b : Byte) : (s.setDt b).st = s.st := rfl
@[simp] theorem State.setDt_mem (b : Byte) : (s.setDt b).mem = s.mem := rfl
@[simp] theorem State.setDt_fb (b : Byte) : (s.setDt b).fb = s.fb := rfl
@[simp] theorem State.setDt_dirty (b : Byte) : (s.setDt b).dirty = s.dirty := rfl
@[simp] theorem State.setDt_fault (b : Byte) : (s.setDt b).fault = s.fault := rfl
@[simp] theorem State.setDt_keys (b : Byte) : (s.setDt b).keys = s.keys := rfl
@[simp] theorem State.setDt_rnd (b : Byte) : (s.setDt b).rnd = s.rnd := rfl
@[simp] theorem State.setDt_tone (b : Byte) : (s.setDt b).tone = s.tone := rfl
@[simp] theorem State.setDt_params (b : Byte) : (s.setDt b).params = s.params := rfl
@[simp] theorem State.setDt_pick (b : Byte) : (s.setDt b).pick = s.pick := rfl
@[simp] theorem State.setDt_plan (b : Byte) : (s.setDt b).plan = s.plan := rfl
@[simp] theorem State.setDt_steps (b : Byte) : (s.setDt b).steps = s.steps := rfl

@[simp] theorem State.setSt_v (b : Byte) : (s.setSt b).v = s.v := rfl
@[simp] theorem State.setSt_i (b : Byte) : (s.setSt b).i = s.i := rfl
@[simp] theorem State.setSt_pc (b : Byte) : (s.setSt b).pc = s.pc := rfl
@[simp] theorem State.setSt_stack (b : Byte) : (s.setSt b).stack = s.stack := rfl
@[simp] theorem State.setSt_sp (b : Byte) : (s.setSt b).sp = s.sp := rfl
@[simp] theorem State.setSt_dt (b : Byte) : (s.setSt b).dt = s.dt := rfl
@[simp] theorem State.setSt_st (b : Byte) : (s.setSt b).st = b := rfl
@[simp] theorem State.setSt_mem (b : Byte) : (s.setSt b).mem = s.mem := rfl
@[simp] theorem State.setSt_fb (b : Byte) : (s.setSt b).fb = s.fb := rfl
@[simp] theorem State.setSt_dirty (b : Byte) : (s.setSt b).dirty = s.dirty := rfl
@[simp] theorem State.setSt_fault (b : Byte) : (s.setSt b).fault = s.fault := rfl
@[simp] theorem State.setSt_keys (b : Byte) : (s.setSt b).keys = s.keys := rfl
@[simp] theorem State.setSt_rnd (b : Byte) : (s.setSt b).rnd = s.rnd := rfl
@[simp] theorem State.setSt_tone (b : Byte) : (s.setSt b).tone = s.tone := rfl
@[simp] theorem State.setSt_params (b : Byte) : (s.setSt b).params = s.params := rfl
@[simp] theorem State.setSt_pick (b : Byte) : (s.setSt b).pick = s.pick := rfl
@[simp] theorem State.setSt_plan (b : Byte) : (s.setSt b).plan = s.plan := rfl
@[simp] theorem State.setSt_steps (b : Byte) : (s.setSt b).steps = s.steps := rfl

@[simp] theorem State.setFlag_v (c : Bool) : (s.setFlag c).v = (s.setV vf (flagByte c)).v := rfl
@[simp] theorem State.setFlag_i (c : Bool) : (s.setFlag c).i = s.i := rfl
@[simp] theorem State.setFlag_pc (c : Bool) : (s.setFlag c).pc = s.pc := rfl
@[simp] theorem State.setFlag_stack (c : Bool) : (s.setFlag c).stack = s.stack := rfl
@[simp] theorem State.setFlag_sp (c : Bool) : (s.setFlag c).sp = s.sp := rfl
@[simp] theorem State.setFlag_dt (c : Bool) : (s.setFlag c).dt = s.dt := rfl
@[simp] theorem State.setFlag_st (c : Bool) : (s.setFlag c).st = s.st := rfl
@[simp] theorem State.setFlag_mem (c : Bool) : (s.setFlag c).mem = s.mem := rfl
@[simp] theorem State.setFlag_fb (c : Bool) : (s.setFlag c).fb = s.fb := rfl
@[simp] theorem State.setFlag_dirty (c : Bool) : (s.setFlag c).dirty = s.dirty := rfl
@[simp] theorem State.setFlag_fault (c : Bool) : (s.setFlag c).fault = s.fault := rfl
@[simp] theorem State.setFlag_keys (c : Bool) : (s.setFlag c).keys = s.keys := rfl
@[simp] theorem State.setFlag_rnd (c : Bool) : (s.setFlag c).rnd = s.rnd := rfl
@[simp] theorem State.setFlag_tone (c : Bool) : (s.setFlag c).tone = s.tone := rfl
@[simp] theorem State.setFlag_params (c : Bool) : (s.setFlag c).params = s.params := rfl
@[simp] theorem State.setFlag_pick (c : Bool) : (s.setFlag c).pick = s.pick := rfl
@[simp] theorem State.setFlag_plan (c : Bool) : (s.setFlag c).plan = s.plan := rfl
@[simp] theorem State.setFlag_steps (c : Bool) : (s.setFlag c).steps = s.steps := rfl

@[simp] theorem State.setResultFlag_v (x : Reg) (b : Byte) (c : Bool) : (s.setResultFlag x b c).v = ((s.setV x b).setV vf (flagByte c)).v := rfl
@[simp] theorem State.setResultFlag_i (x : Reg) (b : Byte) (c : Bool) : (s.setResultFlag x b c).i = s.i := rfl
@[simp] theorem State.setResultFlag_pc (x : Reg) (b : Byte) (c : Bool) : (s.setResultFlag x b c).pc = s.pc := rfl
@[simp] theorem State.setResultFlag_stack (x : Reg) (b : Byte) (c : Bool) : (s.setResultFlag x b c).stack = s.stack := rfl
@[simp] theorem State.setResultFlag_sp (x : Reg) (b : Byte) (c : Bool) : (s.setResultFlag x b c).sp = s.sp := rfl
@[simp] theorem State.setResultFlag_dt (x : Reg) (b : Byte) (c : Bool) : (s.setResultFlag x b c).dt = s.dt := rfl
@[simp] theorem State.setResultFlag_st (x : Reg) (b : Byte) (c : Bool) : (s.setResultFlag x b c).st = s.st := rfl
@[simp] theorem State.setResultFlag_mem (x : Reg) (b : Byte) (c : Bool) : (s.setResultFlag x b c).mem = s.mem := rfl
@[simp] theorem State.setResultFlag_fb (x : Reg) (b : Byte) (c : Bool) : (s.setResultFlag x b c).fb = s.fb := rfl
@[simp] theorem State.setResultFlag_dirty (x : Reg) (b : Byte) (c : Bool) : (s.setResultFlag x b c).dirty = s.dirty := rfl
@[simp] theorem State.setResultFlag_fault (x : Reg) (b : Byte) (c : Bool) : (s.setResultFlag x b c).fault = s.fault := rfl
@[simp] theorem State.setResultFlag_keys (x : Reg) (b : Byte) (c : Bool) : (s.setResultFlag x b c).keys = s.keys := rfl
@[simp] theorem State.setResultFlag_rnd (x : Reg) (b : Byte) (c : Bool) : (s.setResultFlag x b c).rnd = s.rnd := rfl
@[simp] theorem State.setResultFlag_tone (x : Reg) (b : Byte) (c : Bool) : (s.setResultFlag x b c).tone = s.tone := rfl
@[simp] theorem State.setResultFlag_params (x : Reg) (b : Byte) (c : Bool) : (s.setResultFlag x b c).params = s.params := rfl
@[simp] theorem State.setResultFlag_pick (x : Reg) (b : Byte) (c : Bool) : (s.setResultFlag x b c).pick = s.pick := rfl
@[simp] theorem State.setResultFlag_plan (x : Reg) (b : Byte) (c : Bool) : (s.setResultFlag x b c).plan = s.plan := rfl
@[simp] theorem State.setResultFlag_steps (x : Reg) (b : Byte) (c : Bool) : (s.setResultFlag x b c).steps = s.steps := rfl

@[simp] theorem State.loadRegsTo_v (r : Reg) (a : Nat) : (s.loadRegsTo r a).v = Vector.ofFn fun k => if k.val ≤ r.toNat then s.readByte (a + k.val) else s.v[k] := by simp only [State.loadRegsTo]
@[simp] theorem State.loadRegsTo_i (r : Reg) (a : Nat) : (s.loadRegsTo r a).i = s.i := by simp only [State.loadRegsTo]
@[simp] theorem State.loadRegsTo_pc (r : Reg) (a : Nat) : (s.loadRegsTo r a).pc = s.pc := by simp only [State.loadRegsTo]
@[simp] theorem State.loadRegsTo_stack (r : Reg) (a : Nat) : (s.loadRegsTo r a).stack = s.stack := by simp only [State.loadRegsTo]
@[simp] theorem State.loadRegsTo_sp (r : Reg) (a : Nat) : (s.loadRegsTo r a).sp = s.sp := by simp only [State.loadRegsTo]
@[simp] theorem State.loadRegsTo_dt (r : Reg) (a : Nat) : (s.loadRegsTo r a).dt = s.dt := by simp only [State.loadRegsTo]
@[simp] theorem State.loadRegsTo_st (r : Reg) (a : Nat) : (s.loadRegsTo r a).st = s.st := by simp only [State.loadRegsTo]
@[simp] theorem State.loadRegsTo_mem (r : Reg) (a : Nat) : (s.loadRegsTo r a).mem = s.mem := by simp only [State.loadRegsTo]
@[simp] theorem State.loadRegsTo_fb (r : Reg) (a : Nat) : (s.loadRegsTo r a).fb = s.fb := by simp only [State.loadRegsTo]
@[simp] theorem State.loadRegsTo_dirty (r : Reg) (a : Nat) : (s.loadRegsTo r a).dirty = s.dirty := by simp only [State.loadRegsTo]
@[simp] theorem State.loadRegsTo_fault (r : Reg) (a : Nat) : (s.loadRegsTo r a).fault = s.fault := by simp only [State.loadRegsTo]
@[simp] theorem State.loadRegsTo_keys (r : Reg) (a : Nat) : (s.loadRegsTo r a).keys = s.keys := by simp only [State.loadRegsTo]
@[simp] theorem State.loadRegsTo_rnd (r : Reg) (a : Nat) : (s.loadRegsTo r a).rnd = s.rnd := by simp only [State.loadRegsTo]
@[simp] theorem State.loadRegsTo_tone (r : Reg) (a : Nat) : (s.loadRegsTo r a).tone = s.tone := by simp only [State.loadRegsTo]
@[simp] theorem State.loadRegsTo_params (r : Reg) (a : Nat) : (s.loadRegsTo r a).params = s.params := by simp only [State.loadRegsTo]
@[simp] theorem State.loadRegsTo_pick (r : Reg) (a : Nat) : (s.loadRegsTo r a).pick = s.pick := by simp only [State.loadRegsTo]
@[simp] theorem State.loadRegsTo_plan (r : Reg) (a : Nat) : (s.loadRegsTo r a).plan = s.plan := by simp only [State.loadRegsTo]
@[simp] theorem State.loadRegsTo_steps (r : Reg) (a : Nat) : (s.loadRegsTo r a).steps = s.steps := by simp only [State.loadRegsTo]

@[simp] theorem State.pushFrame_v (a : Word) (h : s.sp.val < 16) : (s.pushFrame a h).v = s.v := rfl
@[simp] theorem State.pushFrame_i (a : Word) (h : s.sp.val < 16) : (s.pushFrame a h).i = s.i := rfl
@[simp] theorem State.pushFrame_pc (a : Word) (h : s.sp.val < 16) : (s.pushFrame a h).pc = s.pc := rfl
@[simp] theorem State.pushFrame_stack (a : Word) (h : s.sp.val < 16) : (s.pushFrame a h).stack = s.stack.set s.sp.val a h := rfl
@[simp] theorem State.pushFrame_sp (a : Word) (h : s.sp.val < 16) : (s.pushFrame a h).sp = ⟨s.sp.val + 1, by omega⟩ := rfl
@[simp] theorem State.pushFrame_dt (a : Word) (h : s.sp.val < 16) : (s.pushFrame a h).dt = s.dt := rfl
@[simp] theorem State.pushFrame_st (a : Word) (h : s.sp.val < 16) : (s.pushFrame a h).st = s.st := rfl
@[simp] theorem State.pushFrame_mem (a : Word) (h : s.sp.val < 16) : (s.pushFrame a h).mem = s.mem := rfl
@[simp] theorem State.pushFrame_fb (a : Word) (h : s.sp.val < 16) : (s.pushFrame a h).fb = s.fb := rfl
@[simp] theorem State.pushFrame_dirty (a : Word) (h : s.sp.val < 16) : (s.pushFrame a h).dirty = s.dirty := rfl
@[simp] theorem State.pushFrame_fault (a : Word) (h : s.sp.val < 16) : (s.pushFrame a h).fault = s.fault := rfl
@[simp] theorem State.pushFrame_keys (a : Word) (h : s.sp.val < 16) : (s.pushFrame a h).keys = s.keys := rfl
@[simp] theorem State.pushFrame_rnd (a : Word) (h : s.sp.val < 16) : (s.pushFrame a h).rnd = s.rnd := rfl
@[simp] theorem State.pushFrame_tone (a : Word) (h : s.sp.val < 16) : (s.pushFrame a h).tone = s.tone := rfl
@[simp] theorem State.pushFrame_params (a : Word) (h : s.sp.val < 16) : (s.pushFrame a h).params = s.params := rfl
@[simp] theorem State.pushFrame_pick (a : Word) (h : s.sp.val < 16) : (s.pushFrame a h).pick = s.pick := rfl
@[simp] theorem State.pushFrame_plan (a : Word) (h : s.sp.val < 16) : (s.pushFrame a h).plan = s.plan := rfl
@[simp] theorem State.pushFrame_steps (a : Word) (h : s.sp.val < 16) : (s.pushFrame a h).steps = s.steps := rfl

@[simp] theorem State.popFrame_v (h : 0 < s.sp.val) : (s.popFrame h).v = s.v := rfl
@[simp] theorem State.popFrame_i (h : 0 < s.sp.val) : (s.popFrame h).i = s.i := rfl
@[simp] theorem State.popFrame_pc (h : 0 < s.sp.val) : (s.popFrame h).pc = s.pc := rfl
@[simp] theorem State.popFrame_stack (h : 0 < s.sp.val) : (s.popFrame h).stack = s.stack := rfl
@[simp] theorem State.popFrame_sp (h : 0 < s.sp.val) : (s.popFrame h).sp = ⟨s.sp.val - 1, by have := s.sp.isLt; omega⟩ := rfl
@[simp] theorem State.popFrame_dt (h : 0 < s.sp.val) : (s.popFrame h).dt = s.dt := rfl
@[simp] theorem State.popFrame_st (h : 0 < s.sp.val) : (s.popFrame h).st = s.st := rfl
@[simp] theorem State.popFrame_mem (h : 0 < s.sp.val) : (s.popFrame h).mem = s.mem := rfl
@[simp] theorem State.popFrame_fb (h : 0 < s.sp.val) : (s.popFrame h).fb = s.fb := rfl
@[simp] theorem State.popFrame_dirty (h : 0 < s.sp.val) : (s.popFrame h).dirty = s.dirty := rfl
@[simp] theorem State.popFrame_fault (h : 0 < s.sp.val) : (s.popFrame h).fault = s.fault := rfl
@[simp] theorem State.popFrame_keys (h : 0 < s.sp.val) : (s.popFrame h).keys = s.keys := rfl
@[simp] theorem State.popFrame_rnd (h : 0 < s.sp.val) : (s.popFrame h).rnd = s.rnd := rfl
@[simp] theorem State.popFrame_tone (h : 0 < s.sp.val) : (s.popFrame h).tone = s.tone := rfl
@[simp] theorem State.popFrame_params (h : 0 < s.sp.val) : (s.popFrame h).params = s.params := rfl
@[simp] theorem State.popFrame_pick (h : 0 < s.sp.val) : (s.popFrame h).pick = s.pick := rfl
@[simp] theorem State.popFrame_plan (h : 0 < s.sp.val) : (s.popFrame h).plan = s.plan := rfl
@[simp] theorem State.popFrame_steps (h : 0 < s.sp.val) : (s.popFrame h).steps = s.steps := rfl

@[simp] theorem State.draw_v (f : Framebuffer) : (s.draw f).v = s.v := rfl
@[simp] theorem State.draw_i (f : Framebuffer) : (s.draw f).i = s.i := rfl
@[simp] theorem State.draw_pc (f : Framebuffer) : (s.draw f).pc = s.pc := rfl
@[simp] theorem State.draw_stack (f : Framebuffer) : (s.draw f).stack = s.stack := rfl
@[simp] theorem State.draw_sp (f : Framebuffer) : (s.draw f).sp = s.sp := rfl
@[simp] theorem State.draw_dt (f : Framebuffer) : (s.draw f).dt = s.dt := rfl
@[simp] theorem State.draw_st (f : Framebuffer) : (s.draw f).st = s.st := rfl
@[simp] theorem State.draw_mem (f : Framebuffer) : (s.draw f).mem = s.mem := rfl
@[simp] theorem State.draw_fb (f : Framebuffer) : (s.draw f).fb = f := rfl
@[simp] theorem State.draw_dirty (f : Framebuffer) : (s.draw f).dirty = true := rfl
@[simp] theorem State.draw_fault (f : Framebuffer) : (s.draw f).fault = s.fault := rfl
@[simp] theorem State.draw_keys (f : Framebuffer) : (s.draw f).keys = s.keys := rfl
@[simp] theorem State.draw_rnd (f : Framebuffer) : (s.draw f).rnd = s.rnd := rfl
@[simp] theorem State.draw_tone (f : Framebuffer) : (s.draw f).tone = s.tone := rfl
@[simp] theorem State.draw_params (f : Framebuffer) : (s.draw f).params = s.params := rfl
@[simp] theorem State.draw_pick (f : Framebuffer) : (s.draw f).pick = s.pick := rfl
@[simp] theorem State.draw_plan (f : Framebuffer) : (s.draw f).plan = s.plan := rfl
@[simp] theorem State.draw_steps (f : Framebuffer) : (s.draw f).steps = s.steps := rfl

@[simp] theorem State.raise_v (f : Fault) : (s.raise f).v = s.v := rfl
@[simp] theorem State.raise_i (f : Fault) : (s.raise f).i = s.i := rfl
@[simp] theorem State.raise_pc (f : Fault) : (s.raise f).pc = s.pc := rfl
@[simp] theorem State.raise_stack (f : Fault) : (s.raise f).stack = s.stack := rfl
@[simp] theorem State.raise_sp (f : Fault) : (s.raise f).sp = s.sp := rfl
@[simp] theorem State.raise_dt (f : Fault) : (s.raise f).dt = s.dt := rfl
@[simp] theorem State.raise_st (f : Fault) : (s.raise f).st = s.st := rfl
@[simp] theorem State.raise_mem (f : Fault) : (s.raise f).mem = s.mem := rfl
@[simp] theorem State.raise_fb (f : Fault) : (s.raise f).fb = s.fb := rfl
@[simp] theorem State.raise_dirty (f : Fault) : (s.raise f).dirty = s.dirty := rfl
@[simp] theorem State.raise_fault (f : Fault) : (s.raise f).fault = some ⟨f, s.pc⟩ := rfl
@[simp] theorem State.raise_keys (f : Fault) : (s.raise f).keys = s.keys := rfl
@[simp] theorem State.raise_rnd (f : Fault) : (s.raise f).rnd = s.rnd := rfl
@[simp] theorem State.raise_tone (f : Fault) : (s.raise f).tone = false := rfl
@[simp] theorem State.raise_params (f : Fault) : (s.raise f).params = s.params := rfl
@[simp] theorem State.raise_pick (f : Fault) : (s.raise f).pick = s.pick := rfl
@[simp] theorem State.raise_plan (f : Fault) : (s.raise f).plan = s.plan := rfl
@[simp] theorem State.raise_steps (f : Fault) : (s.raise f).steps = s.steps := rfl

@[simp] theorem State.tick_v : s.tick.v = s.v := rfl
@[simp] theorem State.tick_i : s.tick.i = s.i := rfl
@[simp] theorem State.tick_pc : s.tick.pc = s.pc := rfl
@[simp] theorem State.tick_stack : s.tick.stack = s.stack := rfl
@[simp] theorem State.tick_sp : s.tick.sp = s.sp := rfl
@[simp] theorem State.tick_dt : s.tick.dt = tickTimer s.dt := rfl
@[simp] theorem State.tick_st : s.tick.st = tickTimer s.st := rfl
@[simp] theorem State.tick_mem : s.tick.mem = s.mem := rfl
@[simp] theorem State.tick_fb : s.tick.fb = s.fb := rfl
@[simp] theorem State.tick_dirty : s.tick.dirty = s.dirty := rfl
@[simp] theorem State.tick_fault : s.tick.fault = s.fault := rfl
@[simp] theorem State.tick_keys : s.tick.keys = s.keys := rfl
@[simp] theorem State.tick_rnd : s.tick.rnd = s.rnd := rfl
@[simp] theorem State.tick_tone : s.tick.tone = (s.st == 1) := rfl
@[simp] theorem State.tick_params : s.tick.params = s.params := rfl
@[simp] theorem State.tick_pick : s.tick.pick = s.pick := rfl
@[simp] theorem State.tick_plan : s.tick.plan = s.plan := rfl
@[simp] theorem State.tick_steps : s.tick.steps = s.steps := rfl

/-! The skip writes pc alone, a sequence of stores memory alone, the sampling of the inputs the ports alone. -/

@[simp] theorem State.skipIf_pc (c : Bool) : (s.skipIf c).pc = if c then s.pc + 4 else s.pc + 2 := by
  cases c <;> rfl
@[simp] theorem State.skipIf_v (c : Bool) : (s.skipIf c).v = s.v := by cases c <;> rfl
@[simp] theorem State.skipIf_i (c : Bool) : (s.skipIf c).i = s.i := by cases c <;> rfl
@[simp] theorem State.skipIf_stack (c : Bool) : (s.skipIf c).stack = s.stack := by cases c <;> rfl
@[simp] theorem State.skipIf_sp (c : Bool) : (s.skipIf c).sp = s.sp := by cases c <;> rfl
@[simp] theorem State.skipIf_dt (c : Bool) : (s.skipIf c).dt = s.dt := by cases c <;> rfl
@[simp] theorem State.skipIf_st (c : Bool) : (s.skipIf c).st = s.st := by cases c <;> rfl
@[simp] theorem State.skipIf_mem (c : Bool) : (s.skipIf c).mem = s.mem := by cases c <;> rfl
@[simp] theorem State.skipIf_fb (c : Bool) : (s.skipIf c).fb = s.fb := by cases c <;> rfl
@[simp] theorem State.skipIf_dirty (c : Bool) : (s.skipIf c).dirty = s.dirty := by cases c <;> rfl
@[simp] theorem State.skipIf_fault (c : Bool) : (s.skipIf c).fault = s.fault := by cases c <;> rfl
@[simp] theorem State.skipIf_keys (c : Bool) : (s.skipIf c).keys = s.keys := by cases c <;> rfl
@[simp] theorem State.skipIf_rnd (c : Bool) : (s.skipIf c).rnd = s.rnd := by cases c <;> rfl
@[simp] theorem State.skipIf_tone (c : Bool) : (s.skipIf c).tone = s.tone := by cases c <;> rfl
@[simp] theorem State.skipIf_params (c : Bool) : (s.skipIf c).params = s.params := by cases c <;> rfl
@[simp] theorem State.skipIf_pick (c : Bool) : (s.skipIf c).pick = s.pick := by cases c <;> rfl
@[simp] theorem State.skipIf_plan (c : Bool) : (s.skipIf c).plan = s.plan := by cases c <;> rfl
@[simp] theorem State.skipIf_steps (c : Bool) : (s.skipIf c).steps = s.steps := by cases c <;> rfl

@[simp] theorem State.writeBytes_v (a : Nat) (bs : List Byte) : (s.writeBytes a bs).v = s.v := by
  induction bs generalizing s a with
  | nil => rfl
  | cons b bs ih => exact ih (s.writeByte a b) (a + 1)
@[simp] theorem State.writeBytes_i (a : Nat) (bs : List Byte) : (s.writeBytes a bs).i = s.i := by
  induction bs generalizing s a with
  | nil => rfl
  | cons b bs ih => exact ih (s.writeByte a b) (a + 1)
@[simp] theorem State.writeBytes_pc (a : Nat) (bs : List Byte) : (s.writeBytes a bs).pc = s.pc := by
  induction bs generalizing s a with
  | nil => rfl
  | cons b bs ih => exact ih (s.writeByte a b) (a + 1)
@[simp] theorem State.writeBytes_stack (a : Nat) (bs : List Byte) : (s.writeBytes a bs).stack = s.stack := by
  induction bs generalizing s a with
  | nil => rfl
  | cons b bs ih => exact ih (s.writeByte a b) (a + 1)
@[simp] theorem State.writeBytes_sp (a : Nat) (bs : List Byte) : (s.writeBytes a bs).sp = s.sp := by
  induction bs generalizing s a with
  | nil => rfl
  | cons b bs ih => exact ih (s.writeByte a b) (a + 1)
@[simp] theorem State.writeBytes_dt (a : Nat) (bs : List Byte) : (s.writeBytes a bs).dt = s.dt := by
  induction bs generalizing s a with
  | nil => rfl
  | cons b bs ih => exact ih (s.writeByte a b) (a + 1)
@[simp] theorem State.writeBytes_st (a : Nat) (bs : List Byte) : (s.writeBytes a bs).st = s.st := by
  induction bs generalizing s a with
  | nil => rfl
  | cons b bs ih => exact ih (s.writeByte a b) (a + 1)
@[simp] theorem State.writeBytes_fb (a : Nat) (bs : List Byte) : (s.writeBytes a bs).fb = s.fb := by
  induction bs generalizing s a with
  | nil => rfl
  | cons b bs ih => exact ih (s.writeByte a b) (a + 1)
@[simp] theorem State.writeBytes_dirty (a : Nat) (bs : List Byte) : (s.writeBytes a bs).dirty = s.dirty := by
  induction bs generalizing s a with
  | nil => rfl
  | cons b bs ih => exact ih (s.writeByte a b) (a + 1)
@[simp] theorem State.writeBytes_fault (a : Nat) (bs : List Byte) : (s.writeBytes a bs).fault = s.fault := by
  induction bs generalizing s a with
  | nil => rfl
  | cons b bs ih => exact ih (s.writeByte a b) (a + 1)
@[simp] theorem State.writeBytes_keys (a : Nat) (bs : List Byte) : (s.writeBytes a bs).keys = s.keys := by
  induction bs generalizing s a with
  | nil => rfl
  | cons b bs ih => exact ih (s.writeByte a b) (a + 1)
@[simp] theorem State.writeBytes_rnd (a : Nat) (bs : List Byte) : (s.writeBytes a bs).rnd = s.rnd := by
  induction bs generalizing s a with
  | nil => rfl
  | cons b bs ih => exact ih (s.writeByte a b) (a + 1)
@[simp] theorem State.writeBytes_tone (a : Nat) (bs : List Byte) : (s.writeBytes a bs).tone = s.tone := by
  induction bs generalizing s a with
  | nil => rfl
  | cons b bs ih => exact ih (s.writeByte a b) (a + 1)
@[simp] theorem State.writeBytes_params (a : Nat) (bs : List Byte) : (s.writeBytes a bs).params = s.params := by
  induction bs generalizing s a with
  | nil => rfl
  | cons b bs ih => exact ih (s.writeByte a b) (a + 1)
@[simp] theorem State.writeBytes_pick (a : Nat) (bs : List Byte) : (s.writeBytes a bs).pick = s.pick := by
  induction bs generalizing s a with
  | nil => rfl
  | cons b bs ih => exact ih (s.writeByte a b) (a + 1)
@[simp] theorem State.writeBytes_plan (a : Nat) (bs : List Byte) : (s.writeBytes a bs).plan = s.plan := by
  induction bs generalizing s a with
  | nil => rfl
  | cons b bs ih => exact ih (s.writeByte a b) (a + 1)
@[simp] theorem State.writeBytes_steps (a : Nat) (bs : List Byte) : (s.writeBytes a bs).steps = s.steps := by
  induction bs generalizing s a with
  | nil => rfl
  | cons b bs ih => exact ih (s.writeByte a b) (a + 1)

@[simp] theorem State.beginStep_v : s.beginStep.v = s.v := by
  unfold State.beginStep State.hostTurn; split <;> rfl
@[simp] theorem State.beginStep_i : s.beginStep.i = s.i := by
  unfold State.beginStep State.hostTurn; split <;> rfl
@[simp] theorem State.beginStep_pc : s.beginStep.pc = s.pc := by
  unfold State.beginStep State.hostTurn; split <;> rfl
@[simp] theorem State.beginStep_stack : s.beginStep.stack = s.stack := by
  unfold State.beginStep State.hostTurn; split <;> rfl
@[simp] theorem State.beginStep_sp : s.beginStep.sp = s.sp := by
  unfold State.beginStep State.hostTurn; split <;> rfl
@[simp] theorem State.beginStep_dt : s.beginStep.dt = s.dt := by
  unfold State.beginStep State.hostTurn; split <;> rfl
@[simp] theorem State.beginStep_st : s.beginStep.st = s.st := by
  unfold State.beginStep State.hostTurn; split <;> rfl
@[simp] theorem State.beginStep_mem : s.beginStep.mem = s.mem := by
  unfold State.beginStep State.hostTurn; split <;> rfl
@[simp] theorem State.beginStep_fb : s.beginStep.fb = s.fb := by
  unfold State.beginStep State.hostTurn; split <;> rfl
@[simp] theorem State.beginStep_fault : s.beginStep.fault = s.fault := by
  unfold State.beginStep State.hostTurn; split <;> rfl
@[simp] theorem State.beginStep_tone : s.beginStep.tone = s.tone := by
  unfold State.beginStep State.hostTurn; split <;> rfl
@[simp] theorem State.beginStep_params : s.beginStep.params = s.params := by
  unfold State.beginStep State.hostTurn; split <;> rfl
@[simp] theorem State.beginStep_steps : s.beginStep.steps = s.steps + 1 := rfl

end Sys2Proof.Machine
end

