-- ==== Sys2Proof/Laws/Memory.lean ====
section
/-! SUPPORT. Laws/Memory.lean: read after write, and that every memory operation keeps the canonical form. -/

namespace Sys2Proof.Machine

variable {font : Vector Byte 80}

/-! ## One byte -/

theorem Memory.read_below {lo a : Nat} {m : Memory} (h : Memory.wfFrom font lo m = true) (ha : a < lo) :
    Memory.read font m a = Memory.initByte font a := by
  induction m generalizing lo with
  | nil => rfl
  | cons c m ih =>
    obtain ⟨c, d⟩ := c
    simp only [Memory.wfFrom, Bool.and_eq_true, decide_eq_true_eq] at h
    rw [Memory.read, if_neg (by omega)]
    exact ih h.2 (by omega)

theorem Memory.read_push (a : Nat) (b : Byte) (m : Memory) (a' : Nat)
    (h : Memory.read font m a = Memory.initByte font a) :
    Memory.read font (Memory.push font a b m) a' = if a' = a then b else Memory.read font m a' := by
  unfold Memory.push
  by_cases ha : a' = a
  · subst ha; split <;> simp_all [Memory.read]
  · split <;> simp [Memory.read, Ne.symm ha]

/-- READ AFTER WRITE: the byte written at its address, every other byte as before. -/
theorem Memory.read_write {lo : Nat} {m : Memory} (h : Memory.wfFrom font lo m = true) (a : Nat) (b : Byte) (a' : Nat) :
    Memory.read font (Memory.write font m a b) a' = if a' = a then b else Memory.read font m a' := by
  induction m generalizing lo with
  | nil => exact Memory.read_push a b [] a' rfl
  | cons c m ih =>
    obtain ⟨c, d⟩ := c
    have hm : Memory.wfFrom font (c + 1) m = true := by
      simp only [Memory.wfFrom, Bool.and_eq_true] at h; exact h.2
    rw [Memory.write]
    split
    · refine Memory.read_push a b _ a' ?_
      rw [Memory.read, if_neg (by omega)]
      exact Memory.read_below hm (by omega)
    · split
      · next hac =>
        subst hac
        rw [Memory.read_push a b m a' (Memory.read_below hm (by omega)), Memory.read]
        split
        · rfl
        · rw [if_neg (by omega)]
      · next hlt hne =>
        rw [Memory.read, Memory.read, ih hm]
        by_cases hca : c = a'
        · rw [if_pos hca, if_pos hca, if_neg (by omega)]
        · rw [if_neg hca, if_neg hca]

theorem Memory.wfFrom_weaken {lo lo' : Nat} {m : Memory} (h : Memory.wfFrom font lo m = true) (hl : lo' ≤ lo) :
    Memory.wfFrom font lo' m = true := by
  cases m with
  | nil => rfl
  | cons c m =>
    simp only [Memory.wfFrom, Bool.and_eq_true, decide_eq_true_eq] at h ⊢
    exact ⟨⟨⟨by omega, h.1.1.2⟩, h.1.2⟩, h.2⟩

theorem Memory.wfFrom_push {lo a : Nat} {b : Byte} {m : Memory} (hlo : lo ≤ a) (ha : a < memSize)
    (h : Memory.wfFrom font (a + 1) m = true) : Memory.wfFrom font lo (Memory.push font a b m) = true := by
  unfold Memory.push
  split
  · exact Memory.wfFrom_weaken h (by omega)
  · next hb =>
    simp only [Memory.wfFrom, Bool.and_eq_true, decide_eq_true_eq]
    exact ⟨⟨⟨hlo, ha⟩, hb⟩, h⟩

/-- A WRITE KEEPS THE CANONICAL FORM. -/
theorem Memory.wfFrom_write {lo a : Nat} {m : Memory} (b : Byte) (h : Memory.wfFrom font lo m = true) (hlo : lo ≤ a)
    (ha : a < memSize) : Memory.wfFrom font lo (Memory.write font m a b) = true := by
  induction m generalizing lo with
  | nil => exact Memory.wfFrom_push hlo ha rfl
  | cons c m ih =>
    obtain ⟨c, d⟩ := c
    have h' := h
    simp only [Memory.wfFrom, Bool.and_eq_true, decide_eq_true_eq] at h'
    rw [Memory.write]
    split
    · refine Memory.wfFrom_push hlo ha ?_
      simp only [Memory.wfFrom, Bool.and_eq_true, decide_eq_true_eq]
      exact ⟨⟨⟨by omega, h'.1.1.2⟩, h'.1.2⟩, h'.2⟩
    · split
      · next hac => subst hac; exact Memory.wfFrom_push hlo ha h'.2
      · simp only [Memory.wfFrom, Bool.and_eq_true, decide_eq_true_eq]
        exact ⟨h'.1, ih h'.2 (by omega)⟩

theorem Memory.wf_write {a : Nat} {m : Memory} (b : Byte) (h : Memory.wf font m = true) (ha : a < memSize) :
    Memory.wf font (Memory.write font m a b) = true :=
  Memory.wfFrom_write b h (Nat.zero_le a) ha

theorem Memory.wf_nil : Memory.wf font [] = true := rfl

/-! ## Bytes of a state -/

theorem State.readByte_congr {s t : State} (hm : t.mem = s.mem) (hp : t.params = s.params) (a : Nat) :
    t.readByte a = s.readByte a := by
  unfold State.readByte; rw [hm, hp]

theorem State.readByte_writeByte {s : State} (h : Memory.wf s.params.font s.mem = true) (a : Nat) (b : Byte) (a' : Nat) :
    (s.writeByte a b).readByte a' = if a' = a then b else s.readByte a' :=
  Memory.read_write h a b a'

/-- A SEQUENCE OF STORES KEEPS THE CANONICAL FORM, if every address lies below 4096. -/
theorem State.wf_writeBytes {s : State} {base : Nat} {bs : List Byte} (h : Memory.wf s.params.font s.mem = true)
    (hb : base + bs.length ≤ memSize) : Memory.wf s.params.font (s.writeBytes base bs).mem = true := by
  induction bs generalizing s base with
  | nil => exact h
  | cons b bs ih =>
    rw [List.length_cons] at hb
    exact ih (s := s.writeByte base b) (Memory.wf_write b h (by omega)) (by omega)

/-- What a sequence of stores does to one byte: the stored byte inside the range, the old byte outside it. -/
theorem State.readByte_writeBytes {s : State} {base : Nat} {bs : List Byte} (h : Memory.wf s.params.font s.mem = true)
    (hb : base + bs.length ≤ memSize) (a : Nat) :
    (s.writeBytes base bs).readByte a =
      if h : base ≤ a ∧ a < base + bs.length then bs[a - base]'(by omega) else s.readByte a := by
  induction bs generalizing s base with
  | nil => rw [dif_neg (by simp)]; rfl
  | cons b bs ih =>
    rw [List.length_cons] at hb
    rw [State.writeBytes, ih (s := s.writeByte base b) (Memory.wf_write b h (by omega)) (by omega)]
    by_cases ha : a = base
    · subst ha
      rw [dif_neg (by omega), dif_pos ⟨by omega, by simp⟩, State.readByte_writeByte h]
      simp
    · by_cases hin : base ≤ a ∧ a < base + (b :: bs).length
      · have hin' := hin
        rw [List.length_cons] at hin'
        rw [dif_pos ⟨by omega, by omega⟩, dif_pos hin]
        obtain ⟨n, hn⟩ : ∃ n, a - base = n + 1 := ⟨a - base - 1, by omega⟩
        simp only [hn, show a - (base + 1) = n by omega, List.getElem_cons_succ]
      · rw [List.length_cons] at hin
        rw [dif_neg (by omega), dif_neg (by simpa using hin), State.readByte_writeByte h, if_neg ha]

/-- A sequence of stores changes memory alone. -/
theorem State.writeBytes_eq (s : State) (base : Nat) (bs : List Byte) :
    s.writeBytes base bs = { s with mem := (s.writeBytes base bs).mem } := by
  induction bs generalizing s base with
  | nil => rfl
  | cons b bs ih => rw [State.writeBytes, ih]; rfl

/-- The memory a sequence of stores leaves depends on memory and the font alone. -/
theorem State.mem_writeBytes_congr {s t : State} (base : Nat) (bs : List Byte) (h : s.mem = t.mem)
    (hp : s.params = t.params) : (s.writeBytes base bs).mem = (t.writeBytes base bs).mem := by
  induction bs generalizing s t base with
  | nil => exact h
  | cons c bs ih => exact ih (s := s.writeByte base c) (t := t.writeByte base c) _ (by simp [h, hp]) (by simp [hp])

end Sys2Proof.Machine
end

