-- ==== Sys2Proof/Laws/Ops.lean ====
section
/-! SUPPORT. Laws/Ops.lean: for each shared operation, what it does, said once: registers, ranges, keys, pixels, the fetch,
and the end of a step. -/

namespace Sys2Proof.Machine

variable (s : State)

/-! ## Registers -/

theorem State.getV_congr {s t : State} (h : t.v = s.v) (q : Reg) : t.getV q = s.getV q := by
  unfold State.getV; simp only [h]

/-- A register written reads as the value written, every other as before. -/
theorem State.getV_setV (r : Reg) (b : Byte) (q : Reg) : (s.setV r b).getV q = if q = r then b else s.getV q := by
  unfold State.getV
  simp only [State.setV_v, Vector.getElem_set]
  by_cases h : q = r
  · subst h; simp
  · rw [if_neg (fun e => h (BitVec.eq_of_toNat_eq e.symm)), if_neg h]

@[simp] theorem State.getV_setV_same (r : Reg) (b : Byte) : (s.setV r b).getV r = b := by rw [State.getV_setV, if_pos rfl]

theorem State.getV_setV_other {r q : Reg} (b : Byte) (h : q ≠ r) : (s.setV r b).getV q = s.getV q := by
  rw [State.getV_setV, if_neg h]

@[simp] theorem State.getV_setI (a : Word) (q : Reg) : (s.setI a).getV q = s.getV q := rfl
@[simp] theorem State.getV_setPc (a : Word) (q : Reg) : (s.setPc a).getV q = s.getV q := rfl
@[simp] theorem State.getV_advance (q : Reg) : s.advance.getV q = s.getV q := rfl
@[simp] theorem State.getV_setDt (b : Byte) (q : Reg) : (s.setDt b).getV q = s.getV q := rfl
@[simp] theorem State.getV_setSt (b : Byte) (q : Reg) : (s.setSt b).getV q = s.getV q := rfl
@[simp] theorem State.getV_writeByte (a : Nat) (b : Byte) (q : Reg) : (s.writeByte a b).getV q = s.getV q := rfl
@[simp] theorem State.getV_writeBytes (a : Nat) (bs : List Byte) (q : Reg) : (s.writeBytes a bs).getV q = s.getV q := State.getV_congr (by simp) q
@[simp] theorem State.getV_skipIf (c : Bool) (q : Reg) : (s.skipIf c).getV q = s.getV q := State.getV_congr (by simp) q
@[simp] theorem State.getV_pushFrame (a : Word) (h : s.sp.val < 16) (q : Reg) : (s.pushFrame a h).getV q = s.getV q := rfl
@[simp] theorem State.getV_popFrame (h : 0 < s.sp.val) (q : Reg) : (s.popFrame h).getV q = s.getV q := rfl
@[simp] theorem State.getV_draw (f : Framebuffer) (q : Reg) : (s.draw f).getV q = s.getV q := rfl
@[simp] theorem State.getV_raise (f : Fault) (q : Reg) : (s.raise f).getV q = s.getV q := rfl
@[simp] theorem State.getV_tick (q : Reg) : s.tick.getV q = s.getV q := rfl
@[simp] theorem State.getV_beginStep (q : Reg) : s.beginStep.getV q = s.getV q := State.getV_congr (by simp) q

/-- Result, then flag: VF holds the flag, Vx the result unless X = F, the others are as before. -/
theorem State.getV_setResultFlag (x : Reg) (b : Byte) (c : Bool) (q : Reg) :
    (s.setResultFlag x b c).getV q = if q = vf then flagByte c else if q = x then b else s.getV q := by
  rw [State.setResultFlag, State.setFlag, State.getV_setV, State.getV_setV]

theorem State.getV_setFlag (c : Bool) (q : Reg) : (s.setFlag c).getV q = if q = vf then flagByte c else s.getV q :=
  State.getV_setV s vf (flagByte c) q

/-- V0 to Vr come from memory, the registers above as before. -/
theorem State.getV_loadRegsTo (r : Reg) (base : Nat) (q : Reg) :
    (s.loadRegsTo r base).getV q = if q.toNat ≤ r.toNat then s.readByte (base + q.toNat) else s.getV q := by
  unfold State.getV
  simp only [State.loadRegsTo_v, Vector.getElem_ofFn]
  rfl

theorem State.length_regsTo (r : Reg) : (s.regsTo r).length = r.toNat + 1 := by
  have := r.isLt
  simp [State.regsTo]; omega

theorem State.getElem_regsTo (r : Reg) (k : Nat) (h : k < (s.regsTo r).length) (hk : k < 16) :
    (s.regsTo r)[k] = s.v[k] := by
  simp [State.regsTo]

/-! ## Bytes -/

@[simp] theorem State.readByte_setV (r : Reg) (b : Byte) (k : Nat) : (s.setV r b).readByte k = s.readByte k :=
  State.readByte_congr (by simp) (by simp) k
@[simp] theorem State.readByte_setI (a : Word) (k : Nat) : (s.setI a).readByte k = s.readByte k :=
  State.readByte_congr (by simp) (by simp) k
@[simp] theorem State.readByte_setPc (a : Word) (k : Nat) : (s.setPc a).readByte k = s.readByte k :=
  State.readByte_congr (by simp) (by simp) k
@[simp] theorem State.readByte_advance (k : Nat) : s.advance.readByte k = s.readByte k :=
  State.readByte_congr (by simp) (by simp) k
@[simp] theorem State.readByte_setDt (b : Byte) (k : Nat) : (s.setDt b).readByte k = s.readByte k :=
  State.readByte_congr (by simp) (by simp) k
@[simp] theorem State.readByte_setSt (b : Byte) (k : Nat) : (s.setSt b).readByte k = s.readByte k :=
  State.readByte_congr (by simp) (by simp) k
@[simp] theorem State.readByte_setFlag (c : Bool) (k : Nat) : (s.setFlag c).readByte k = s.readByte k :=
  State.readByte_congr (by simp) (by simp) k
@[simp] theorem State.readByte_setResultFlag (x : Reg) (b : Byte) (c : Bool) (k : Nat) : (s.setResultFlag x b c).readByte k = s.readByte k :=
  State.readByte_congr (by simp) (by simp) k
@[simp] theorem State.readByte_loadRegsTo (r : Reg) (b : Nat) (k : Nat) : (s.loadRegsTo r b).readByte k = s.readByte k :=
  State.readByte_congr (by simp) (by simp) k
@[simp] theorem State.readByte_skipIf (c : Bool) (k : Nat) : (s.skipIf c).readByte k = s.readByte k :=
  State.readByte_congr (by simp) (by simp) k
@[simp] theorem State.readByte_pushFrame (a : Word) (h : s.sp.val < 16) (k : Nat) : (s.pushFrame a h).readByte k = s.readByte k :=
  State.readByte_congr (by simp) (by simp) k
@[simp] theorem State.readByte_popFrame (h : 0 < s.sp.val) (k : Nat) : (s.popFrame h).readByte k = s.readByte k :=
  State.readByte_congr (by simp) (by simp) k
@[simp] theorem State.readByte_draw (f : Framebuffer) (k : Nat) : (s.draw f).readByte k = s.readByte k :=
  State.readByte_congr (by simp) (by simp) k
@[simp] theorem State.readByte_raise (f : Fault) (k : Nat) : (s.raise f).readByte k = s.readByte k :=
  State.readByte_congr (by simp) (by simp) k
@[simp] theorem State.readByte_tick (k : Nat) : s.tick.readByte k = s.readByte k :=
  State.readByte_congr (by simp) (by simp) k
@[simp] theorem State.readByte_beginStep (k : Nat) : s.beginStep.readByte k = s.readByte k :=
  State.readByte_congr (by simp) (by simp) k

theorem State.length_readBytes (base n : Nat) : (s.readBytes base n).length = n := by simp [State.readBytes]

theorem State.getElem_readBytes (base n k : Nat) (h : k < (s.readBytes base n).length) :
    (s.readBytes base n)[k] = s.readByte (base + k) := by
  simp [State.readBytes]

theorem length_bcdDigits (b : Byte) : (bcdDigits b).length = 3 := rfl

/-! ## The range check -/

theorem firstBadAddress_eq_none {base n : Nat} : firstBadAddress base n = none ↔ n = 0 ∨ base + n ≤ memSize := by
  unfold firstBadAddress
  split
  · next h => simp; omega
  · next h => simp only [true_iff]; omega

theorem firstBadAddress_eq_some {base n a : Nat} :
    firstBadAddress base n = some a ↔ n ≠ 0 ∧ base + n > memSize ∧ a = max base memSize := by
  unfold firstBadAddress
  split
  · next h => simp only [Option.some.injEq]; omega
  · next h => simp only [reduceCtorEq, false_iff]; omega

/-! ## Keys -/

theorem mem_pressedKeys {keys : BitVec 16} {k : Fin 16} : k ∈ pressedKeys keys ↔ keys.getLsbD k.val = true := by
  simp [pressedKeys]

theorem selectKey_eq_none {policy : KeySelect} {pick : Fin 16} {ks : List (Fin 16)} :
    selectKey policy pick ks = none ↔ ks = [] := by
  match ks with
  | [] => simp [selectKey]
  | [k] => simp [selectKey]
  | k :: j :: ks =>
    cases policy
    · simp only [selectKey, reduceCtorEq, iff_false]
      have : pick.val % (ks.length + 2) < (k :: j :: ks).length := Nat.mod_lt _ (by omega)
      rw [List.getElem?_eq_getElem this]
      simp
    · simp [selectKey]

/-- The key selected is one of those pressed. -/
theorem selectKey_mem {policy : KeySelect} {pick : Fin 16} {ks : List (Fin 16)} {k : Fin 16}
    (h : selectKey policy pick ks = some k) : k ∈ ks := by
  match ks, h with
  | [j], h => simpa [selectKey] using h.symm
  | i :: j :: ks, h =>
    cases policy
    · exact List.mem_of_getElem? h
    · simp only [selectKey, Option.some.injEq] at h; simp [h]

/-! ## Pixels -/

theorem onScreen_eq_some {px py : Nat} {p : Pixel} : onScreen px py = some p ↔ px = p.x.val ∧ py = p.y.val := by
  obtain ⟨⟨x, hx⟩, ⟨y, hy⟩⟩ := p
  unfold onScreen
  split
  · simp
  · next h => simp only [reduceCtorEq, false_iff]; omega

/-- A place on the screen belongs to one column and row of the sprite at most. -/
theorem place_injective {e : DrawEdge} {x0 y0 k r k' r' : Nat} {p : Pixel} (h : place e x0 y0 k r = some p)
    (h' : place e x0 y0 k' r' = some p) (hk : k < 64) (hk' : k' < 64) (hr : r < 32) (hr' : r' < 32) : k = k' ∧ r = r' := by
  cases e <;> simp only [place, onScreen_eq_some] at h h' <;> omega

theorem mem_spriteRowPixels {e : DrawEdge} {x0 y0 r : Nat} {b : Byte} {p : Pixel} :
    p ∈ spriteRowPixels e x0 y0 r b ↔ ∃ k, k < 8 ∧ b.getLsbD (7 - k) = true ∧ place e x0 y0 k r = some p := by
  simp only [spriteRowPixels, List.mem_filterMap, List.mem_range]
  refine exists_congr fun k => and_congr_right fun _ => ?_
  split
  · next h => simp [h]
  · next h => simp [h]

/-- WHICH PIXELS A SPRITE COVERS: those of its set bits, at their places. -/
theorem mem_spritePixels {e : DrawEdge} {x0 y0 r : Nat} {bs : List Byte} {p : Pixel} :
    p ∈ spritePixels e x0 y0 r bs ↔
      ∃ j k, ∃ h : j < bs.length, k < 8 ∧ bs[j].getLsbD (7 - k) = true ∧ place e x0 y0 k (r + j) = some p := by
  induction bs generalizing r with
  | nil => simp [spritePixels]
  | cons b bs ih =>
    rw [spritePixels, List.mem_append, mem_spriteRowPixels, ih]
    constructor
    · rintro (⟨k, h⟩ | ⟨j, k, hj, h1, h2, h3⟩)
      · exact ⟨0, k, by simp, h⟩
      · exact ⟨j + 1, k, by simpa using hj, h1, by simpa using h2, by rw [← h3]; congr 1; omega⟩
    · rintro ⟨j, k, hj, h1, h2, h3⟩
      cases j with
      | zero => exact .inl ⟨k, h1, h2, h3⟩
      | succ j => exact .inr ⟨j, k, by simpa using hj, h1, by simpa using h2, by rw [← h3]; congr 1; omega⟩

theorem nodup_places {e : DrawEdge} {x0 y0 r : Nat} (b : Byte) (hr : r < 32) {ks : List Nat} (hn : ks.Nodup)
    (h8 : ∀ k ∈ ks, k < 8) : (ks.filterMap fun k => if b.getLsbD (7 - k) then place e x0 y0 k r else none).Nodup := by
  induction ks with
  | nil => simp
  | cons k ks ih =>
    obtain ⟨h1, h2⟩ := List.nodup_cons.mp hn
    have ih := ih h2 fun j hj => h8 j (by simp [hj])
    rw [List.filterMap_cons]
    split
    · exact ih
    · next p hp =>
      rw [List.nodup_cons]
      refine ⟨fun hm => ?_, ih⟩
      obtain ⟨j, hj, hq⟩ := List.mem_filterMap.mp hm
      have e1 : place e x0 y0 k r = some p := by split at hp; exact hp; cases hp
      have e2 : place e x0 y0 j r = some p := by split at hq; exact hq; cases hq
      have hk := h8 k (by simp)
      have hj8 := h8 j (by simp [hj])
      have := (place_injective e1 e2 (by omega) (by omega) hr hr).1
      subst this; exact h1 hj

/-- A sprite of at most 32 rows covers no pixel twice. -/
theorem nodup_spritePixels {e : DrawEdge} {x0 y0 r : Nat} (bs : List Byte) (hr : r + bs.length ≤ 32) :
    (spritePixels e x0 y0 r bs).Nodup := by
  induction bs generalizing r with
  | nil => simp [spritePixels]
  | cons b bs ih =>
    rw [List.length_cons] at hr
    rw [spritePixels, List.nodup_append]
    refine ⟨nodup_places b (by omega) List.nodup_range (by simp), ih (by omega), fun p hp q hq hpq => ?_⟩
    subst hpq
    obtain ⟨k, h1, h2, h3⟩ := mem_spriteRowPixels.mp hp
    obtain ⟨j, k', hj, g1, g2, g3⟩ := mem_spritePixels.mp hq
    have := (place_injective h3 g3 (by omega) (by omega) (by omega) (by omega)).2
    omega

theorem Framebuffer.lit_flip (fb : Framebuffer) (p q : Pixel) :
    (fb.flip p).lit q = if q = p then !fb.lit q else fb.lit q := by
  obtain ⟨px, py⟩ := p
  obtain ⟨qx, qy⟩ := q
  unfold Framebuffer.flip Framebuffer.lit
  simp only [Fin.getElem_fin, Vector.getElem_set, Pixel.mk.injEq]
  by_cases hy : py = qy
  · subst hy
    by_cases hx : px = qx
    · subst hx; simp
    · have : ¬ px.val = qx.val := fun e => hx (Fin.ext e)
      simp [this, Ne.symm hx]
  · have : ¬ py.val = qy.val := fun e => hy (Fin.ext e)
    simp [this, Ne.symm hy]

/-- Two framebuffers with the same pixels are equal. -/
theorem Framebuffer.ext_lit {a b : Framebuffer} (h : ∀ p, a.lit p = b.lit p) : a = b := by
  apply Vector.ext
  intro y hy
  apply Vector.ext
  intro x hx
  exact h ⟨⟨x, hx⟩, ⟨y, hy⟩⟩

@[simp] theorem Framebuffer.lit_blank (p : Pixel) : Framebuffer.blank.lit p = false := by
  simp [Framebuffer.blank, Framebuffer.lit]

/-- WHAT A BLIT DOES: each pixel of the list, each listed once, is flipped; no other is; and the flag becomes true when
one of them was lit. -/
theorem Framebuffer.blit_spec {ps : List Pixel} (hn : ps.Nodup) (fb : Framebuffer) (c : Bool) :
    (∀ q, (Framebuffer.blit ps (fb, c)).1.lit q = (fb.lit q ^^ decide (q ∈ ps))) ∧
      (Framebuffer.blit ps (fb, c)).2 = (c || ps.any fb.lit) := by
  induction ps generalizing fb c with
  | nil => simp [Framebuffer.blit]
  | cons p ps ih =>
    obtain ⟨hp, hn⟩ := List.nodup_cons.mp hn
    obtain ⟨h1, h2⟩ := ih hn (fb.flip p) (c || fb.lit p)
    refine ⟨fun q => ?_, ?_⟩
    · rw [Framebuffer.blit, h1, Framebuffer.lit_flip]
      by_cases hq : q = p
      · subst hq; simp [hp]
      · simp [hq]
    · rw [Framebuffer.blit, h2, List.any_cons, Bool.or_assoc]
      have : ∀ q ∈ ps, (fb.flip p).lit q = fb.lit q := fun q hq => by
        have hne : q ≠ p := fun e => hp (e ▸ hq)
        rw [Framebuffer.lit_flip, if_neg hne]
      rw [Bool.eq_iff_iff]
      simp only [Bool.or_eq_true, List.any_eq_true]
      constructor
      · rintro (h | h | ⟨q, hq, h⟩)
        · exact .inl h
        · exact .inr (.inl h)
        · exact .inr (.inr ⟨q, hq, this q hq ▸ h⟩)
      · rintro (h | h | ⟨q, hq, h⟩)
        · exact .inl h
        · exact .inr (.inl h)
        · exact .inr (.inr ⟨q, hq, (this q hq).symm ▸ h⟩)

/-! ## The step around an instruction -/

/-- WHAT A FETCH ANSWERS, the three cases of R52. -/
theorem State.fetch_cases :
    (s.pc.getLsbD 0 = true ∧ s.params.oddPcPolicy = .fault ∧ s.fetch = .error (.misalignedFetch s.pc)) ∨
      ((s.pc.getLsbD 0 = false ∨ s.params.oddPcPolicy = .fetch) ∧ s.pc.toNat + 1 > 0xFFF ∧
        s.fetch = .error (.addressOutOfRange s.pc.toNat)) ∨
      ((s.pc.getLsbD 0 = false ∨ s.params.oddPcPolicy = .fetch) ∧ s.pc.toNat + 1 ≤ 0xFFF ∧
        s.fetch = .ok (wordOfBytes (s.readByte s.pc.toNat) (s.readByte (s.pc.toNat + 1)))) := by
  unfold State.fetch
  cases hb : s.pc.getLsbD 0 <;> cases ho : s.params.oddPcPolicy <;> by_cases hr : s.pc.toNat + 1 > 0xFFF <;>
    simp [hr] <;> omega

/-- WHAT ENDS A STEP: Execute's answer, ticked unless it faulted. -/
theorem finishStep_next {o : Result} {u : State} (h : finishStep o = .next u) :
    ∃ t, o = .next t ∧ ((t.fault = none ∧ u = t.tick) ∨ (t.fault ≠ none ∧ u = t)) := by
  cases o with
  | next t =>
    refine ⟨t, rfl, ?_⟩
    simp only [finishStep, Host.Outcome.next.injEq] at h
    by_cases hf : t.fault = none
    · exact .inl ⟨hf, by rw [← h, if_pos hf]⟩
    · exact .inr ⟨hf, by rw [← h, if_neg hf]⟩
  | fault r => simp [finishStep] at h
  | refused r => simp [finishStep] at h

end Sys2Proof.Machine
end

