-- ==== Sys2Proof/Laws/Exec.lean ====
section
/-! SUPPORT. Laws/Exec.lean: what Execute answers for the instructions that have a case to distinguish, and what it can
answer at all. -/

namespace Sys2Proof.Machine

variable {s t : State}

/-! ## Where an instruction distinguishes cases -/

theorem exec_sys_fault {nnn : Addr12} (h : s.params.sysPolicy = .fault) :
    exec (.sys nnn) s = .next (s.raise (.unknownOpcode (encode (.sys nnn)))) := by
  simp only [exec, execSys, h]

theorem exec_sys_nop {nnn : Addr12} (h : s.params.sysPolicy = .nop) : exec (.sys nnn) s = .next s.advance := by
  simp only [exec, execSys, h]

theorem exec_call_below {nnn : Addr12} (h : s.sp.val < 16) :
    exec (.call nnn) s = .next ((s.pushFrame s.pc h).setPc (absolute nnn)) := dif_pos h

theorem exec_call_full {nnn : Addr12} (h : ¬s.sp.val < 16) :
    exec (.call nnn) s = .next (s.raise (.stackOverflow s.pc)) := dif_neg h

theorem exec_ret_active (h : 0 < s.sp.val) : exec .ret s = .next ((s.popFrame h).setPc (s.topFrame h + 2)) := dif_pos h

theorem exec_ret_empty (h : ¬0 < s.sp.val) : exec .ret s = .next (s.raise (.stackUnderflow s.pc)) := dif_neg h

theorem exec_ldB_fits {x : Reg} (h : firstBadAddress s.i.toNat 3 = none) :
    exec (.ldB x) s = .next (s.writeBytes s.i.toNat (bcdDigits (s.getV x))).advance := by
  simp only [exec, execLdB, h]

theorem exec_ldB_bad {x : Reg} {a : Nat} (h : firstBadAddress s.i.toNat 3 = some a) :
    exec (.ldB x) s = .next (s.raise (.addressOutOfRange a)) := by
  simp only [exec, execLdB, h]

theorem exec_ldStore_fits {x : Reg} (h : firstBadAddress s.i.toNat (x.toNat + 1) = none) :
    exec (.ldStore x) s = .next ((s.writeBytes s.i.toNat (s.regsTo x)).setI (s.indexPast x)).advance := by
  simp only [exec, execLdStore, h]

theorem exec_ldStore_bad {x : Reg} {a : Nat} (h : firstBadAddress s.i.toNat (x.toNat + 1) = some a) :
    exec (.ldStore x) s = .next (s.raise (.addressOutOfRange a)) := by
  simp only [exec, execLdStore, h]

theorem exec_ldLoad_fits {x : Reg} (h : firstBadAddress s.i.toNat (x.toNat + 1) = none) :
    exec (.ldLoad x) s = .next ((s.loadRegsTo x s.i.toNat).setI (s.indexPast x)).advance := by
  simp only [exec, execLdLoad, h]

theorem exec_ldLoad_bad {x : Reg} {a : Nat} (h : firstBadAddress s.i.toNat (x.toNat + 1) = some a) :
    exec (.ldLoad x) s = .next (s.raise (.addressOutOfRange a)) := by
  simp only [exec, execLdLoad, h]

theorem exec_drw_fits {x y : Reg} {n : Nibble} (h : firstBadAddress s.i.toNat n.toNat = none) :
    exec (.drw x y n) s =
      .next ((s.draw (Framebuffer.blit (s.sprite x y n) (s.fb, false)).1).setFlag
        (Framebuffer.blit (s.sprite x y n) (s.fb, false)).2).advance := by
  simp only [exec, execDrw, h]

theorem exec_drw_bad {x y : Reg} {n : Nibble} {a : Nat} (h : firstBadAddress s.i.toNat n.toNat = some a) :
    exec (.drw x y n) s = .next (s.raise (.addressOutOfRange a)) := by
  simp only [exec, execDrw, h]

theorem exec_skp_key {x : Reg} {k : Nibble} (h : keyIndex s.params.keyIndexPolicy (s.getV x) = some k) :
    exec (.skp x) s = .next (s.skipIf (s.keyPressed k == true)) := by
  simp only [exec, execSkp, State.skipOnKey, h]

theorem exec_skp_bad {x : Reg} (h : keyIndex s.params.keyIndexPolicy (s.getV x) = none) :
    exec (.skp x) s = .next (s.raise (.keyIndexOutOfRange (s.getV x))) := by
  simp only [exec, execSkp, State.skipOnKey, h]

theorem exec_sknp_key {x : Reg} {k : Nibble} (h : keyIndex s.params.keyIndexPolicy (s.getV x) = some k) :
    exec (.sknp x) s = .next (s.skipIf (s.keyPressed k == false)) := by
  simp only [exec, execSknp, State.skipOnKey, h]

theorem exec_sknp_bad {x : Reg} (h : keyIndex s.params.keyIndexPolicy (s.getV x) = none) :
    exec (.sknp x) s = .next (s.raise (.keyIndexOutOfRange (s.getV x))) := by
  simp only [exec, execSknp, State.skipOnKey, h]

theorem exec_ldVxK_waits {x : Reg} (h : s.awaitedKey = none) : exec (.ldVxK x) s = .next s := by
  simp only [exec, execLdVxK, h]

theorem exec_ldVxK_resolves {x : Reg} {k : Fin 16} (h : s.awaitedKey = some k) :
    exec (.ldVxK x) s = .next (s.setV x (BitVec.ofNat 8 k.val)).advance := by
  simp only [exec, execLdVxK, h]

/-! ## The pixels a sprite covers -/

/-- The place on the screen is the one R194 gives. -/
theorem place_eq_some {e : DrawEdge} {x0 y0 k r : Nat} {p : Pixel} : place e x0 y0 k r = some p ↔ LandsOn e x0 y0 k r p := by
  cases e <;> exact onScreen_eq_some

/-- The pixels DRW flips are those its sprite covers. -/
theorem State.mem_sprite {x y : Reg} {n : Nibble} {p : Pixel} :
    p ∈ s.sprite x y n ↔ s.SpriteCovers (s.getV x).toNat (s.getV y).toNat n.toNat p := by
  simp only [State.sprite, State.SpriteCovers, mem_spritePixels, place_eq_some, Nat.zero_add]
  constructor
  · rintro ⟨j, k, hj, h1, h2, h3⟩
    rw [State.getElem_readBytes] at h2
    exact ⟨j, k, by rwa [State.length_readBytes] at hj, h1, h2, h3⟩
  · rintro ⟨j, k, hj, h1, h2, h3⟩
    exact ⟨j, k, by rwa [State.length_readBytes], h1, by rwa [State.getElem_readBytes], h3⟩

/-- DRW flips no pixel twice. -/
theorem State.nodup_sprite (x y : Reg) (n : Nibble) : (s.sprite x y n).Nodup :=
  nodup_spritePixels _ (by rw [State.length_readBytes]; have := n.isLt; omega)

/-! ## What Execute can answer at all -/

/-- Execute raises a fault, or leaves the fault status as it was. -/
theorem exec_raises_or_keeps_fault {i : Instr} (h : exec i s = .next t) :
    (∃ f, t = s.raise f) ∨ t.fault = s.fault := by
  cases i <;>
    simp only [exec, execSys, execCls, execRet, execJp, execCall, execSeImm, execSneImm, execSeReg, execLdImm, execAddImm,
      execLdReg, execOrReg, execAndReg, execXorReg, execAddReg, execSub, execShr, execSubn, execShl, execSneReg, execLdI,
      execJpV0, execRnd, execDrw, execSkp, execSknp, State.skipOnKey, execLdVxDt, execLdVxK, execLdDtVx, execLdStVx,
      execAddI, execLdF, execLdB, execLdStore, execLdLoad] at h <;>
    (repeat' split at h) <;> (try simp only [Host.Outcome.next.injEq] at h) <;> subst h <;>
    first
    | exact .inl ⟨_, rfl⟩
    | (right; simp)

/-- The host's turn and the count of steps leave what a fetch reads. -/
theorem State.fetchInstr_beginStep : s.beginStep.fetchInstr = s.fetchInstr := by
  unfold State.fetchInstr State.fetch; simp

/-- The ticked timer, as a number. -/
theorem toNat_tickTimer (b : Byte) : (tickTimer b).toNat = b.toNat - 1 := by
  unfold tickTimer
  split
  · next h => subst h; rfl
  · next h =>
    have h0 : b.toNat ≠ 0 := fun e => h (BitVec.eq_of_toNat_eq e)
    have := b.isLt
    rw [BitVec.toNat_sub]
    simp; omega

end Sys2Proof.Machine
end

