-- ==== Sys2Proof/Laws/PerInstr.lean ====
section
/-! SUPPORT. Laws/PerInstr.lean: the family TableRow: every instruction's word lies in its row of the opcode map (R78). -/

namespace Sys2Proof.Laws.TableRow

/-- The word of the instruction, masked with its row's mask, is its row's match (R78). -/
def Statement (i : Instr) : Prop := encode i &&& rowMask i = rowMatch i

/-! ## The three masks over the three shapes of a word -/

variable (op x y n : Nibble) (nn : Byte) (nnn : Addr12)

/-- The bits of a mask that keeps the family, and the low `k` bits. -/
def keeps (k i : Nat) : Bool := decide (12 ≤ i) || decide (i < k)

theorem mask_F000 : ∀ i, i < 16 → (0xF000#16).getLsbD i = keeps 0 i := by decide
theorem mask_F00F : ∀ i, i < 16 → (0xF00F#16).getLsbD i = keeps 4 i := by decide
theorem mask_F0FF : ∀ i, i < 16 → (0xF0FF#16).getLsbD i = keeps 8 i := by decide

theorem masked_opNNN : (op ++ nnn : Word) &&& 0xF000#16 = op ++ 0#12 := by
  apply BitVec.eq_of_getLsbD_eq; intro i hi
  rw [BitVec.getLsbD_and, mask_F000 i hi, bit_opNNN, bit_opNNN, keeps]
  by_cases h : 12 ≤ i <;> simp [h]

theorem masked_opXNN : (op ++ x ++ nn : Word) &&& 0xF000#16 = op ++ 0#12 := by
  apply BitVec.eq_of_getLsbD_eq; intro i hi
  rw [BitVec.getLsbD_and, mask_F000 i hi, bit_opXNN, bit_opNNN, keeps]
  by_cases h : 12 ≤ i
  · simp [h, Nat.not_lt.mpr h, show ¬ i < 8 by omega]
  · simp [h]

theorem masked_opXYN : (op ++ x ++ y ++ n : Word) &&& 0xF000#16 = op ++ 0#12 := by
  apply BitVec.eq_of_getLsbD_eq; intro i hi
  rw [BitVec.getLsbD_and, mask_F000 i hi, bit_opXYN, bit_opNNN, keeps]
  by_cases h : 12 ≤ i
  · simp [h, Nat.not_lt.mpr h, show ¬ i < 8 by omega, show ¬ i < 4 by omega]
  · simp [h]

theorem masked_opXNN_low : (op ++ x ++ nn : Word) &&& 0xF0FF#16 = op ++ 0#4 ++ nn := by
  apply BitVec.eq_of_getLsbD_eq; intro i hi
  rw [BitVec.getLsbD_and, mask_F0FF i hi, bit_opXNN, bit_opXNN, keeps]
  by_cases h8 : i < 8
  · simp [h8]
  · by_cases h : 12 ≤ i
    · simp [h, h8, Nat.not_lt.mpr h]
    · simp [h, h8]

theorem masked_opXYN_low : (op ++ x ++ y ++ n : Word) &&& 0xF00F#16 = op ++ 0#4 ++ 0#4 ++ n := by
  apply BitVec.eq_of_getLsbD_eq; intro i hi
  rw [BitVec.getLsbD_and, mask_F00F i hi, bit_opXYN, bit_opXYN, keeps]
  by_cases h4 : i < 4
  · simp [h4]
  · by_cases h : 12 ≤ i
    · simp [h, h4, Nat.not_lt.mpr h, show ¬ i < 8 by omega]
    · simp [h, h4]

/-! ## Every constructor -/

theorem sys (nnn : Addr12) : Statement (.sys nnn) := masked_opNNN _ nnn
theorem cls : Statement (.cls) := by unfold Statement; decide
theorem ret : Statement (.ret) := by unfold Statement; decide
theorem jp (nnn : Addr12) : Statement (.jp nnn) := masked_opNNN _ nnn
theorem call (nnn : Addr12) : Statement (.call nnn) := masked_opNNN _ nnn
theorem seImm (x : Reg) (nn : Byte) : Statement (.seImm x nn) := masked_opXNN _ x nn
theorem sneImm (x : Reg) (nn : Byte) : Statement (.sneImm x nn) := masked_opXNN _ x nn
theorem seReg (x : Reg) (y : Reg) : Statement (.seReg x y) := masked_opXYN_low _ x y _
theorem ldImm (x : Reg) (nn : Byte) : Statement (.ldImm x nn) := masked_opXNN _ x nn
theorem addImm (x : Reg) (nn : Byte) : Statement (.addImm x nn) := masked_opXNN _ x nn
theorem ldReg (x : Reg) (y : Reg) : Statement (.ldReg x y) := masked_opXYN_low _ x y _
theorem orReg (x : Reg) (y : Reg) : Statement (.orReg x y) := masked_opXYN_low _ x y _
theorem andReg (x : Reg) (y : Reg) : Statement (.andReg x y) := masked_opXYN_low _ x y _
theorem xorReg (x : Reg) (y : Reg) : Statement (.xorReg x y) := masked_opXYN_low _ x y _
theorem addReg (x : Reg) (y : Reg) : Statement (.addReg x y) := masked_opXYN_low _ x y _
theorem sub (x : Reg) (y : Reg) : Statement (.sub x y) := masked_opXYN_low _ x y _
theorem shr (x : Reg) (y : Reg) : Statement (.shr x y) := masked_opXYN_low _ x y _
theorem subn (x : Reg) (y : Reg) : Statement (.subn x y) := masked_opXYN_low _ x y _
theorem shl (x : Reg) (y : Reg) : Statement (.shl x y) := masked_opXYN_low _ x y _
theorem sneReg (x : Reg) (y : Reg) : Statement (.sneReg x y) := masked_opXYN_low _ x y _
theorem ldI (nnn : Addr12) : Statement (.ldI nnn) := masked_opNNN _ nnn
theorem jpV0 (nnn : Addr12) : Statement (.jpV0 nnn) := masked_opNNN _ nnn
theorem rnd (x : Reg) (nn : Byte) : Statement (.rnd x nn) := masked_opXNN _ x nn
theorem drw (x : Reg) (y : Reg) (n : Nibble) : Statement (.drw x y n) := masked_opXYN _ x y n
theorem skp (x : Reg) : Statement (.skp x) := masked_opXNN_low _ x _
theorem sknp (x : Reg) : Statement (.sknp x) := masked_opXNN_low _ x _
theorem ldVxDt (x : Reg) : Statement (.ldVxDt x) := masked_opXNN_low _ x _
theorem ldVxK (x : Reg) : Statement (.ldVxK x) := masked_opXNN_low _ x _
theorem ldDtVx (x : Reg) : Statement (.ldDtVx x) := masked_opXNN_low _ x _
theorem ldStVx (x : Reg) : Statement (.ldStVx x) := masked_opXNN_low _ x _
theorem addI (x : Reg) : Statement (.addI x) := masked_opXNN_low _ x _
theorem ldF (x : Reg) : Statement (.ldF x) := masked_opXNN_low _ x _
theorem ldB (x : Reg) : Statement (.ldB x) := masked_opXNN_low _ x _
theorem ldStore (x : Reg) : Statement (.ldStore x) := masked_opXNN_low _ x _
theorem ldLoad (x : Reg) : Statement (.ldLoad x) := masked_opXNN_low _ x _

end Sys2Proof.Laws.TableRow
end

