-- ==== Sys2Proof/Tests/Slice0.lean ====
section
/-! SUPPORT. Tests/Slice0.lean: the WellFormed smoke, the decoding of a word written out bit by bit for every constructor,
one-step tests (expected results from spec/95_test_vectors.md, whose vector numbers they carry), and for every obligation
with hypotheses a witness that meets them together. -/

namespace Sys2Proof.Tests

open Sys2Proof Sys2Proof.Machine

-- one theorem after the other: each evaluates whole states in the kernel
set_option Elab.async false

/-! ## Helpers -/

/-- The answer is a next state of which the property holds. -/
def holds (o : Result) (p : State → Bool) : Bool :=
  match o with
  | .next t => p t
  | _ => false

/-- One step on the word placed at pc. -/
def run (w : Nat) (s : State) : Result := step (s.withFetchWord 16 w)

/-- A turn of the host that presents these keys and this random byte. -/
def turn (keys : BitVec 16) (rnd : Byte) : HostTurn := ⟨keys, rnd, 0, false⟩

/-- The machine after reset, with VF preset to 0x5A as the vectors of 2.3 have it, and a host that presses no key. -/
def base : State := { State.reset.setV vf 0x5A with plan := [turn 0 0] }

/-- The base state with V1 and V2. -/
def two (a b : Byte) : State := (base.setV 0x1 a).setV 0x2 b

/-- The base state under changed parameters. -/
def under (p : Params → Params) : State := { base with params := p base.params }

/-- The step faults with this cause at this pc, and leaves everything else as the state it began in. -/
def faultsWith (w : Nat) (s : State) (f : Fault) : Bool :=
  holds (run w s) fun t => t == { (s.withFetchWord 16 w).beginStep with fault := some ⟨f, s.pc⟩, tone := false }

/-- The word at pc steps to a state whose pc is the given one, and no fault. -/
def goesTo (w : Nat) (s : State) (pc : Word) : Bool := holds (run w s) fun t => t.pc == pc && t.fault == none

/-- The screen on which exactly these pixels (x, y) are lit. -/
def screen (ps : List (Fin 64 × Fin 32)) : Framebuffer :=
  ps.foldl (fun fb p => fb.flip ⟨p.1, p.2⟩) Framebuffer.blank

/-! ## WellFormed: the words of CLS and RET are no SYS (R74) -/

theorem test_sys_0E0_is_ill_formed : ¬WellFormed (.sys 0x0E0) := by decide +kernel
theorem test_sys_0EE_is_ill_formed : ¬WellFormed (.sys 0x0EE) := by decide +kernel
theorem test_sys_0E1_is_well_formed : WellFormed (.sys 0x0E1) ∧ encode (.sys 0x0E1) = 0x00E1#16 := by decide +kernel

/-! ## Decoding: a word of each constructor, written out from the patterns of R78 -/

theorem test_decode_family_0 :
    decodeWord false 0b0000_0001_0010_0011#16 = .ok (.sys 0x123) ∧ decodeWord false 0b0000_0000_1110_0000#16 = .ok .cls ∧
      decodeWord false 0b0000_0000_1110_1110#16 = .ok .ret := by decide +kernel

theorem test_decode_jumps :
    decodeWord false 0b0001_1010_1011_1100#16 = .ok (.jp 0xABC) ∧
      decodeWord false 0b0010_1010_1011_1100#16 = .ok (.call 0xABC) ∧
      decodeWord false 0b1011_0001_0010_0011#16 = .ok (.jpV0 0x123) := by decide +kernel

theorem test_decode_skips :
    decodeWord false 0b0011_0101_1100_1010#16 = .ok (.seImm 0x5 0xCA) ∧
      decodeWord false 0b0100_0101_1100_1010#16 = .ok (.sneImm 0x5 0xCA) ∧
      decodeWord false 0b0101_0001_0010_0000#16 = .ok (.seReg 0x1 0x2) ∧
      decodeWord false 0b1001_0001_0010_0000#16 = .ok (.sneReg 0x1 0x2) := by decide +kernel

theorem test_decode_immediates :
    decodeWord false 0b0110_1010_0011_1100#16 = .ok (.ldImm 0xA 0x3C) ∧
      decodeWord false 0b0111_1010_0011_1100#16 = .ok (.addImm 0xA 0x3C) ∧
      decodeWord false 0b1100_1010_0011_1100#16 = .ok (.rnd 0xA 0x3C) ∧
      decodeWord false 0b1010_0001_0010_0011#16 = .ok (.ldI 0x123) := by decide +kernel

theorem test_decode_family_8 :
    decodeWord false 0b1000_1010_1011_0000#16 = .ok (.ldReg 0xA 0xB) ∧
      decodeWord false 0b1000_1010_1011_0001#16 = .ok (.orReg 0xA 0xB) ∧
      decodeWord false 0b1000_1010_1011_0010#16 = .ok (.andReg 0xA 0xB) ∧
      decodeWord false 0b1000_1010_1011_0011#16 = .ok (.xorReg 0xA 0xB) ∧
      decodeWord false 0b1000_1010_1011_0100#16 = .ok (.addReg 0xA 0xB) ∧
      decodeWord false 0b1000_1010_1011_0101#16 = .ok (.sub 0xA 0xB) ∧
      decodeWord false 0b1000_1010_1011_0110#16 = .ok (.shr 0xA 0xB) ∧
      decodeWord false 0b1000_1010_1011_0111#16 = .ok (.subn 0xA 0xB) ∧
      decodeWord false 0b1000_1010_1011_1110#16 = .ok (.shl 0xA 0xB) := by decide +kernel

theorem test_decode_draw_and_keys :
    decodeWord false 0b1101_0001_0010_1111#16 = .ok (.drw 0x1 0x2 0xF) ∧
      decodeWord false 0b1110_0101_1001_1110#16 = .ok (.skp 0x5) ∧
      decodeWord false 0b1110_0101_1010_0001#16 = .ok (.sknp 0x5) := by decide +kernel

theorem test_decode_family_F :
    decodeWord false 0b1111_0011_0000_0111#16 = .ok (.ldVxDt 0x3) ∧
      decodeWord false 0b1111_0011_0000_1010#16 = .ok (.ldVxK 0x3) ∧
      decodeWord false 0b1111_0011_0001_0101#16 = .ok (.ldDtVx 0x3) ∧
      decodeWord false 0b1111_0011_0001_1000#16 = .ok (.ldStVx 0x3) ∧
      decodeWord false 0b1111_0011_0001_1110#16 = .ok (.addI 0x3) ∧
      decodeWord false 0b1111_0011_0010_1001#16 = .ok (.ldF 0x3) ∧
      decodeWord false 0b1111_0011_0011_0011#16 = .ok (.ldB 0x3) ∧
      decodeWord false 0b1111_0011_0101_0101#16 = .ok (.ldStore 0x3) ∧
      decodeWord false 0b1111_0011_0110_0101#16 = .ok (.ldLoad 0x3) := by decide +kernel

/-- 2.1: words that are no instruction; 5XYN and 9XYN with N ≠ 0 are instructions under LooseSkipReg. -/
theorem test_decode_unknown :
    [0x5121#16, 0x9121#16, 0x8008#16, 0x8009#16, 0x800A#16, 0x800B#16, 0x800C#16, 0x800D#16, 0x800F#16, 0xE09F#16,
      0xE000#16, 0xE0A2#16, 0xF000#16, 0xF008#16, 0xF0FF#16, 0xF030#16, 0xF056#16, 0xF066#16].all
      (fun w => decide (decodeWord false w = .error (.unknownOpcode w))) = true ∧
      decodeWord true 0x5121#16 = .ok (.seReg 0x1 0x2) ∧ decodeWord true 0x9121#16 = .ok (.sneReg 0x1 0x2) := by decide +kernel

/-- R51: the high byte lies at the lower address; fewer than two bytes are no word. -/
theorem test_decode_bytes :
    decode false [0xD1, 0x2F, 0xAA] = .ok (.drw 0x1 0x2 0xF, [0xAA]) ∧ encodeBytes (.drw 0x1 0x2 0xF) = [0xD1, 0x2F] ∧
      decode false [0xD1] = .error .truncated ∧ decodeTableWord 16 0xD12F = some (.drw 0x1 0x2 0xF) := by decide +kernel

/-! ## Control flow -/

/-- C18, and the parameter's other value (R120). -/
theorem test_sys : faultsWith 0x0123 base (.unknownOpcode 0x0123) = true ∧
    goesTo 0x0123 (under fun p => { p with sysPolicy := .nop }) 0x202 = true := by decide +kernel

/-- C1. -/
theorem test_jp : goesTo 0x1228 base 0x228 = true := by decide +kernel

/-- C2. -/
theorem test_call : holds (run 0x2210 (base.setPc 0x204)) (fun t =>
    t.stack[0] == 0x204#16 && t.sp == 1 && t.pc == 0x210#16) = true := by decide +kernel

/-- C3. -/
theorem test_call_full : faultsWith 0x2400 { base with sp := 16, pc := 0x300 } (.stackOverflow 0x300) = true := by decide +kernel

/-- C4. -/
theorem test_ret : holds (run 0x00EE { base with sp := 1, stack := base.stack.set 0 0x204 }) (fun t =>
    t.sp == 0 && t.pc == 0x206#16) = true := by decide +kernel

/-- C5. -/
theorem test_ret_empty : faultsWith 0x00EE base (.stackUnderflow 0x200) = true := by decide +kernel

/-- C6, C7. -/
theorem test_seImm : goesTo 0x3310 (base.setV 0x3 0x10) 0x204 = true ∧
    goesTo 0x3310 (base.setV 0x3 0x11) 0x202 = true := by decide +kernel

/-- C8, C9. -/
theorem test_sneImm : goesTo 0x4310 (base.setV 0x3 0x10) 0x202 = true ∧
    goesTo 0x4310 (base.setV 0x3 0x11) 0x204 = true := by decide +kernel

/-- C10, C11; and not equal. -/
theorem test_seReg : goesTo 0x5120 (two 7 7) 0x204 = true ∧ goesTo 0x5110 (two 7 8) 0x204 = true ∧
    goesTo 0x5120 (two 7 8) 0x202 = true := by decide +kernel

/-- C12, C13. -/
theorem test_sneReg : goesTo 0x9120 (two 7 8) 0x204 = true ∧ goesTo 0x9110 (two 7 8) 0x202 = true := by decide +kernel

/-- C14, C15: the target is neither masked nor wrapped. -/
theorem test_jpV0 : goesTo 0xB300 (base.setV 0x0 0x04) 0x304 = true ∧
    goesTo 0xBFFF (base.setV 0x0 0xFF) 0x10FE = true := by decide +kernel

/-- C17: a skip past the end of memory. -/
theorem test_skip_at_the_end : goesTo 0x3000 (base.setPc 0xFFE) 0x1002 = true := by decide +kernel

/-- C15, C16, the fetch that follows: out of range; at an odd pc, which `fetch` allows (here of the bytes 12 34). -/
theorem test_fetch_faults :
    holds (step (base.setPc 0x10FE)) (fun t => t.fault == some ⟨.addressOutOfRange 0x10FE, 0x10FE⟩) = true ∧
      holds (step (base.setPc 0x201)) (fun t => t.fault == some ⟨.misalignedFetch 0x201, 0x201⟩) = true ∧
      goesTo 0x1234 ((under fun p => { p with oddPcPolicy := .fetch }).setPc 0x201) 0x234 = true := by decide +kernel

/-! ## Registers and ALU -/

/-- A1. -/
theorem test_ldImm : holds (run 0x6A3C base) (fun t => t.getV 0xA == 0x3C#8 && t.pc == 0x202#16) = true := by decide +kernel

/-- A2, A4: no flag. -/
theorem test_addImm : holds (run 0x7101 (two 0xFF 0)) (fun t => t.getV 0x1 == 0#8 && t.getV vf == 0x5A#8) = true ∧
    holds (run 0x7F05 (base.setV vf 0xFE)) (fun t => t.getV vf == 0x03#8) = true := by decide +kernel

/-- A5. -/
theorem test_ldReg : holds (run 0x8120 (two 0 0x55)) (fun t => t.getV 0x1 == 0x55#8 && t.getV vf == 0x5A#8) = true := by
  decide +kernel

/-- A6, A10. -/
theorem test_orReg : holds (run 0x8121 (two 0xF0 0x0F)) (fun t => t.getV 0x1 == 0xFF#8 && t.getV vf == 0x5A#8) = true ∧
    holds (run 0x8F21 ((two 0 0xF0).setV vf 0x0F)) (fun t => t.getV vf == 0xFF#8) = true := by decide +kernel

/-- A7. -/
theorem test_andReg : holds (run 0x8122 (two 0xF3 0x3F)) (fun t => t.getV 0x1 == 0x33#8 && t.getV vf == 0x5A#8) = true := by
  decide +kernel

/-- A8, A9. -/
theorem test_xorReg : holds (run 0x8123 (two 0xFF 0x0F)) (fun t => t.getV 0x1 == 0xF0#8 && t.getV vf == 0x5A#8) = true ∧
    holds (run 0x8113 (two 0x77 0)) (fun t => t.getV 0x1 == 0#8) = true := by decide +kernel

/-- S2, A13, A16. -/
theorem test_addReg : holds (run 0x8124 (two 250 10)) (fun t => t.getV 0x1 == 4#8 && t.getV vf == 1#8) = true ∧
    holds (run 0x8124 (two 0xFF 0)) (fun t => t.getV 0x1 == 0xFF#8 && t.getV vf == 0#8) = true ∧
    holds (run 0x81F4 ((two 1 0).setV vf 0xFF)) (fun t => t.getV 0x1 == 0#8 && t.getV vf == 1#8) = true := by decide +kernel

/-- S5, A17, A19: the flag is the complement of the borrow, and remains when X = F. -/
theorem test_sub : holds (run 0x8125 (two 3 5)) (fun t => t.getV 0x1 == 254#8 && t.getV vf == 0#8) = true ∧
    holds (run 0x8125 (two 7 7)) (fun t => t.getV 0x1 == 0#8 && t.getV vf == 1#8) = true ∧
    holds (run 0x8F25 ((two 0 3).setV vf 5)) (fun t => t.getV vf == 1#8) = true := by decide +kernel

/-- A21, A22. -/
theorem test_subn : holds (run 0x8127 (two 3 5)) (fun t => t.getV 0x1 == 2#8 && t.getV vf == 1#8) = true ∧
    holds (run 0x8127 (two 5 3)) (fun t => t.getV 0x1 == 254#8 && t.getV vf == 0#8) = true := by decide +kernel

/-- S6, and A28 under both values of ShiftSource. -/
theorem test_shr : holds (run 0x8106 (two 3 0)) (fun t => t.getV 0x1 == 1#8 && t.getV vf == 1#8) = true ∧
    holds (run 0x8126 (two 0 3)) (fun t => t.getV 0x1 == 0#8 && t.getV vf == 0#8) = true ∧
    holds (run 0x8126 ((under fun p => { p with shiftSource := .vy }).setV 0x2 3)) (fun t =>
      t.getV 0x1 == 1#8 && t.getV vf == 1#8) = true := by decide +kernel

/-- S7, A32. -/
theorem test_shl : holds (run 0x810E (two 0x81 0)) (fun t => t.getV 0x1 == 2#8 && t.getV vf == 1#8) = true ∧
    holds (run 0x8F0E (base.setV vf 0x40)) (fun t => t.getV vf == 0#8) = true := by decide +kernel

/-! ## Index register and memory -/

/-- M1. -/
theorem test_ldI : holds (run 0xA123 base) (fun t => t.i == 0x123#16) = true := by decide +kernel

/-- M3, M4, M6. -/
theorem test_addI :
    holds (run 0xF11E ((two 0 0).setI 0x0FFF)) (fun t => t.i == 0x0FFF#16 && t.getV vf == 0#8) = true ∧
      holds (run 0xF11E ((two 1 0).setI 0x0FFF)) (fun t => t.i == 0x1000#16 && t.getV vf == 1#8) = true ∧
      holds (run 0xF11E ((two 1 0).setI 0xFFFF)) (fun t => t.i == 0#16 && t.getV vf == 1#8) = true := by decide +kernel

/-- M7: X = F. -/
theorem test_addI_vf :
    holds (run 0xFF1E ((base.setV vf 5).setI 0x100)) (fun t => t.i == 0x105#16 && t.getV vf == 0#8) = true := by decide +kernel

/-- M9, M11: the value is not masked. -/
theorem test_ldF : holds (run 0xF129 (two 0x0F 0)) (fun t => t.i == 0x4B#16) = true ∧
    holds (run 0xF129 (two 0xFF 0)) (fun t => t.i == 0x4FB#16) = true := by decide +kernel

/-- M12, M13: at the end of memory, I unchanged. -/
theorem test_ldB : holds (run 0xF133 ((two 255 0).setI 0x300)) (fun t => t.readBytes 0x300 3 == [2, 5, 5]) = true ∧
    holds (run 0xF133 ((two 123 0).setI 0xFFD)) (fun t => t.readBytes 0xFFD 3 == [1, 2, 3] && t.i == 0xFFD#16) = true := by
  decide +kernel

/-- M14. -/
theorem test_ldB_out_of_range : faultsWith 0xF133 ((two 123 0).setI 0xFFE) (.addressOutOfRange 0x1000) = true := by decide +kernel

/-- S10's store; M16: VF and the last byte of memory. -/
theorem test_ldStore :
    holds (run 0xF355 { base with v := #v[0x11, 0x22, 0x33, 0x44, 0, 0, 0, 0, 0, 0, 0, 0, 0, 0, 0, 0], i := 0x300 }) (fun t =>
      t.readBytes 0x300 5 == [0x11, 0x22, 0x33, 0x44, 0] && t.i == 0x304#16) = true ∧
    holds (run 0xFF55 { base with v := #v[0, 1, 2, 3, 4, 5, 6, 7, 8, 9, 10, 11, 12, 13, 14, 15], i := 0xFF0 }) (fun t =>
      t.readBytes 0xFF0 16 == [0, 1, 2, 3, 4, 5, 6, 7, 8, 9, 10, 11, 12, 13, 14, 15] && t.i == 0x1000#16) = true := by decide +kernel

/-- M17. -/
theorem test_ldStore_out_of_range : faultsWith 0xFF55 (base.setI 0xFF1) (.addressOutOfRange 0x1000) = true := by decide +kernel

/-- M18: the glyph of 0; the registers above are unchanged. -/
theorem test_ldLoad : holds (run 0xF465 (base.setV 0x5 0x77)) (fun t =>
    t.v.toList.take 6 == [0xF0, 0x90, 0x90, 0x90, 0xF0, 0x77] && t.i == 5#16) = true := by decide +kernel

/-- M20. -/
theorem test_ldLoad_out_of_range : faultsWith 0xF465 (base.setI 0xFFC) (.addressOutOfRange 0x1000) = true := by decide +kernel

/-! ## Display -/

/-- D1, on a screen with a lit pixel. -/
theorem test_cls : holds (run 0x00E0 { base with fb := base.fb.flip ⟨3, 4⟩ }) (fun t =>
    decide (t.fb = screen []) && t.dirty && t.getV vf == 0x5A#8) = true := by decide +kernel

/-- D2: the 14 pixels of glyph 0. -/
theorem test_drw_glyph : holds (run 0xD005 base) (fun t =>
    decide (t.fb = screen [(0, 0), (1, 0), (2, 0), (3, 0), (0, 1), (3, 1), (0, 2), (3, 2), (0, 3), (3, 3),
      (0, 4), (1, 4), (2, 4), (3, 4)]) && t.getV vf == 0#8 && t.dirty) = true := by decide +kernel

/-- D4, D5: the collision, and none. -/
theorem test_drw_collision :
    holds (run 0xD001 { (base.setI 0x300).writeByte 0x300 0x80 with fb := base.fb.flip ⟨0, 0⟩ }) (fun t =>
      decide (t.fb = screen []) && t.getV vf == 1#8) = true ∧
    holds (run 0xD001 { (base.setI 0x300).writeByte 0x300 0x40 with fb := base.fb.flip ⟨0, 0⟩ }) (fun t =>
      decide (t.fb = screen [(0, 0), (1, 0)]) && t.getV vf == 0#8) = true := by decide +kernel

/-- D6, D7: the right edge under the three values of DrawEdge. -/
theorem test_drw_edge :
    (∀ e ∈ [(DrawEdge.clip, [(62, 0), (63, 0)]), (.wrapStart, [(62, 0), (63, 0)]),
      (.wrapAll, [(0, 0), (1, 0), (2, 0), (3, 0), (4, 0), (5, 0), (62, 0), (63, 0)])],
      holds (run 0xD121 (((under fun p => { p with drawEdge := e.1 }).setV 0x1 62).setI 0x300 |>.writeByte 0x300 0xFF))
        (fun t => decide (t.fb = screen e.2)) = true) ∧
    (∀ e ∈ [(DrawEdge.clip, []),
      (.wrapStart, [(0, 0), (1, 0), (2, 0), (3, 0), (4, 0), (5, 0), (6, 0), (7, 0)]),
      (.wrapAll, [(0, 0), (1, 0), (2, 0), (3, 0), (4, 0), (5, 0), (6, 0), (7, 0)])],
      holds (run 0xD121 (((under fun p => { p with drawEdge := e.1 }).setV 0x1 64).setI 0x300 |>.writeByte 0x300 0xFF))
        (fun t => decide (t.fb = screen e.2)) = true) := by decide +kernel

/-- D8, D11: the lower edge; the operand VF is read before the flag is written. -/
theorem test_drw_bottom_and_vf :
    holds (run 0xD122 ((((base.setV 0x2 31).setI 0x300).writeByte 0x300 0x80).writeByte 0x301 0x80)) (fun t =>
      decide (t.fb = screen [(0, 31)])) = true ∧
    holds (run 0xDF01 (((base.setV vf 8).setI 0x300).writeByte 0x300 0x80)) (fun t =>
      decide (t.fb = screen [(8, 0)]) && t.getV vf == 0#8) = true := by decide +kernel

/-- D9: no rows; D10: a row out of range. -/
theorem test_drw_no_rows_and_out_of_range :
    holds (run 0xD120 base) (fun t => decide (t.fb = screen []) && t.getV vf == 0#8 && t.dirty) = true ∧
      faultsWith 0xD123 (base.setI 0xFFE) (.addressOutOfRange 0x1000) = true := by decide +kernel

/-! ## Random, keys, timers -/

/-- T1. -/
theorem test_rnd : holds (run 0xC30F { base with plan := [turn 0 0xB7] }) (fun t => t.getV 0x3 == 7#8) = true := by decide +kernel

/-- T4, T5. -/
theorem test_skp : goesTo 0xE59E { base.setV 0x5 7 with plan := [turn 0x0080 0] } 0x204 = true ∧
    goesTo 0xE59E (base.setV 0x5 7) 0x202 = true := by decide +kernel

/-- T6, T7. -/
theorem test_sknp : goesTo 0xE5A1 (base.setV 0x5 7) 0x204 = true ∧
    goesTo 0xE5A1 { base.setV 0x5 7 with plan := [turn 0x0080 0] } 0x202 = true := by decide +kernel

/-- T8: the index 0x10, and key 0 under `mask`. -/
theorem test_key_index : faultsWith 0xE59E (base.setV 0x5 0x10) (.keyIndexOutOfRange 0x10) = true ∧
    goesTo 0xE59E { (under fun p => { p with keyIndexPolicy := .mask }).setV 0x5 0x10 with plan := [turn 1 0] } 0x204
      = true := by decide +kernel

/-- T9. -/
theorem test_ldVxDt : holds (run 0xF307 { base with dt := 9 }) (fun t => t.getV 0x3 == 9#8 && t.dt == 8#8) = true := by decide +kernel

/-- T11. -/
theorem test_ldVxK_waits : holds (run 0xF30A { base with dt := 3 }) (fun t =>
    t.pc == 0x200#16 && t.v == base.v && t.dt == 2#8) = true := by decide +kernel

/-- T12: the lowest key under `lowestPressed`; under `anyPressed` the draw decides. -/
theorem test_ldVxK_resolves :
    holds (run 0xF30A { (under fun p => { p with keySelect := .lowestPressed }) with plan := [⟨0x0208, 0, 1, false⟩] })
      (fun t => t.getV 0x3 == 3#8 && t.pc == 0x202#16) = true ∧
    holds (run 0xF30A { base with plan := [⟨0x0208, 0, 1, false⟩] }) (fun t => t.getV 0x3 == 9#8) = true := by decide +kernel

/-- T13, T14. -/
theorem test_ldDtVx : holds (run 0xF115 (two 60 0)) (fun t => t.dt == 59#8) = true ∧
    holds (run 0xF115 { two 0 0 with dt := 5 }) (fun t => t.dt == 0#8) = true := by decide +kernel

/-- S13, T15's first step. -/
theorem test_ldStVx : holds (run 0xF118 (two 1 0)) (fun t => t.st == 0#8 && t.tone) = true ∧
    holds (run 0xF118 (two 0 0)) (fun t => t.st == 0#8 && !t.tone) = true ∧
    holds (run 0xF118 (two 3 0)) (fun t => t.st == 2#8 && !t.tone) = true := by decide +kernel

/-- T17, T18: the tick of a step that completes; a step that faults does not tick. -/
theorem test_tick : holds (run 0x1200 { base with dt := 1, st := 1 }) (fun t => t.dt == 0#8 && t.st == 0#8 && t.tone) = true ∧
    faultsWith 0x8008 { base with dt := 5, st := 5 } (.unknownOpcode 0x8008) = true := by decide +kernel

/-! ## The step and the host -/

/-- S14: a machine that has faulted takes no further step. -/
theorem test_halted : step { base with fault := some ⟨.unknownOpcode 0x8008, 0x200⟩ } = .fault (.unknownOpcode 0x8008) :=
  rfl

/-- R230: the codes, and an info of each kind. -/
theorem test_fault_codes :
    [Fault.unknownOpcode 0x8008, .addressOutOfRange 0x1000, .misalignedFetch 0x201, .stackOverflow 0x300,
      .stackUnderflow 0x200, .keyIndexOutOfRange 0x10, .invalidImageSize 3585].map (fun f => (f.code, f.info)) =
    [(1, 0x8008), (2, 0x1000), (3, 0x201), (4, 0x300), (5, 0x200), (6, 0x10), (7, 3585)] := by decide

/-- R262, R263: the first word loaded is the first word fetched; the host clears `dirty` only when it acknowledges. -/
theorem test_host :
    holds (State.reset.load [0x61, 0x05]) (fun t => t.fetchInstr == .ok (.ldImm 0x1 0x05)) = true ∧
      ({ base with dirty := true, plan := [⟨0, 0, 0, true⟩] } : State).beginStep.dirty = false ∧
      ({ base with dirty := true, plan := [turn 0 0] } : State).beginStep.dirty = true := by decide +kernel

/-- A write of what an unlisted address reads as removes the entry. -/
theorem test_memory_is_canonical :
    ((base.writeByte 0x300 1).writeByte 0x300 0).mem = [] ∧ (base.writeByte 0 0xF0).mem = [] ∧
      (base.writeByte 0x300 1).mem = [(0x300, 1)] := by decide +kernel

/-! ## Witnesses: for every obligation with hypotheses, a state and operands that meet them together, at the boundary of
each clause -/

/-- The base state with the word placed where it is fetched. -/
def placed (w : Nat) : State := base.withFetchWord 16 w

/-- The base state with I. -/
def atI (i : Word) : State := base.setI i

theorem witness_LoadPlacesTheImage :
    (State.reset.steps = 0 ∧ (List.replicate 3584 (0xAB : Byte)).length ≤ 3584 ∧ State.reset.MemCanonical) ∧
      (State.reset.steps = 0 ∧ 3584 < (List.replicate 3585 (0xAB : Byte)).length) ∧
      ({ State.reset with steps := 1 } : State).steps ≠ 0 := by
  refine ⟨⟨rfl, ?_, rfl⟩, ⟨rfl, ?_⟩, by decide⟩ <;> rw [List.length_replicate]
  omega

theorem witness_FirstFetchReadsTheImage : (List.replicate 3582 (0xAB : Byte)).length + 2 ≤ 3584 := by
  rw [List.length_replicate]

theorem witness_PlacedWordRunsFirst : decodeTableWord 16 0x6A3C = some (.ldImm 0xA 0x3C) := by decide

theorem witness_DecodeOfEncodeIsTheInstruction : WellFormed (.drw 0xF 0xF 0xF) ∧ WellFormed (.sys 0xFFF) := by decide

theorem witness_EncodeOfDecodeIsTheWord :
    decodeWord false 0x5120#16 = .ok (.seReg 0x1 0x2) ∧
      (decodeWord true 0x912F#16 = .ok (.sneReg 0x1 0x2) ∧ fieldN 0x912F#16 ≠ 0) := by decide

theorem witness_MatchingWordsDecodeToTheirRow :
    (WellFormed (.ldLoad 0) ∧ 0xFF65#16 &&& rowMask (.ldLoad 0) = rowMatch (.ldLoad 0)) ∧
      (WellFormed (.sys 1) ∧ 0x00E0#16 &&& rowMask (.sys 1) = rowMatch (.sys 1)) ∧
      (WellFormed (.sys 1) ∧ 0x00EE#16 &&& rowMask (.sys 1) = rowMatch (.sys 1)) := by decide

theorem witness_StepRunsTheDecodedInstruction :
    ((placed 0x6A3C).Running ∧ (placed 0x6A3C).Fetches (.ldImm 0xA 0x3C)) ∧
      (((under fun p => { p with oddPcPolicy := .fetch }).setPc 0xFFD).withFetchWord 16 0x6A3C).Fetches
        (.ldImm 0xA 0x3C) :=
  ⟨⟨rfl, .inl (by decide), by decide, by decide⟩, .inr (by decide), by decide, by decide⟩

theorem witness_InputsAreSampledFromThePlan : base.plan = [turn 0 0] ∧ State.reset.plan = [] := ⟨rfl, rfl⟩

/-- For CompletedStepTicksTheSoundTimer and CompletedStepTicksTheDelayTimer. -/
theorem witness_CompletedStepTicks :
    (placed 0x6A3C).Running ∧ (placed 0x6A3C).Fetches (.ldImm 0xA 0x3C) ∧
      ∃ t, exec (.ldImm 0xA 0x3C) (placed 0x6A3C).beginStep = .next t ∧ t.fault = none :=
  ⟨rfl, ⟨.inl (by decide), by decide, by decide⟩, _, rfl, rfl⟩

theorem witness_FaultingStepCommitsOnlyTheRecord : ∃ u, step base = .next u ∧ u.fault ≠ none :=
  ⟨_, rfl, by decide⟩

theorem witness_FetchAndDecodeFaultInOrder :
    ((base.setPc 0x1001).Running ∧ (base.setPc 0x1001).pc.getLsbD 0 = true ∧
      (base.setPc 0x1001).params.oddPcPolicy = .fault) ∧
    ((base.setPc 0x1000).pc.getLsbD 0 = false ∧ 0xFFF < (base.setPc 0x1000).pc.toNat + 1) ∧
    ((under fun p => { p with oddPcPolicy := .fetch }).params.oddPcPolicy = .fetch ∧
      0xFFF < ((under fun p => { p with oddPcPolicy := .fetch }).setPc 0xFFF).pc.toNat + 1) ∧
    ((placed 0x8008).pc.getLsbD 0 = false ∧ (placed 0x8008).pc.toNat + 1 ≤ 0xFFF ∧
      wordOfBytes ((placed 0x8008).readByte 0x200) ((placed 0x8008).readByte 0x201) = 0x8008#16 ∧
      decodeWord false 0x8008#16 = .error (.unknownOpcode 0x8008#16)) :=
  ⟨⟨rfl, by decide, rfl⟩, by decide, by decide, by decide⟩

theorem witness_OnlyAHaltedMachineStops :
    ({ base with fault := some ⟨.stackUnderflow 0x200, 0x200⟩ } : State).fault = some ⟨.stackUnderflow 0x200, 0x200⟩ := rfl

theorem witness_SysFollowsItsPolicy :
    base.params.sysPolicy = .fault ∧ (under fun p => { p with sysPolicy := .nop }).params.sysPolicy = .nop := ⟨rfl, rfl⟩

/-- A routine's body that changed a register and pc, and left the CALL's frame on top; 16 frames are active. -/
theorem witness_CallThenRetResumesAfterTheCall :
    ({ base with sp := 15 } : State).sp.val < 16 ∧
      ∃ t, exec (.call 0x300) { base with sp := 15 } = .next t ∧ ((t.setV 0x1 7).setPc 0x400).sp = t.sp ∧
        ((t.setV 0x1 7).setPc 0x400).stack[15] = t.stack[15] := ⟨by decide, _, rfl, rfl, rfl⟩

/-- For CallPushesItsOwnAddress, RetResumesPastTheCall, StackOverflowAndUnderflowFault. -/
theorem witness_calls_and_returns :
    (({ base with sp := 15 } : State).sp.val < 16 ∧ base.sp.val < 16) ∧
      (0 < ({ base with sp := 16 } : State).sp.val ∧ 0 < ({ base with sp := 1 } : State).sp.val) ∧
      (({ base with sp := 16 } : State).sp.val = 16 ∧ base.sp.val = 0) := by decide

/-- For ImmediateSkipsCompare, RegisterSkipsCompare: both conditions, met and not met. -/
theorem witness_skip_conditions :
    (base.getV 0x1 = 0 ∧ base.getV 0x1 ≠ 1) ∧ ((two 7 7).getV 0x1 = (two 7 7).getV 0x2 ∧ (two 7 8).getV 0x1 ≠ (two 7 8).getV 0x2) := by
  decide

/-- For ArithmeticWrapsAndSetsVf. -/
theorem witness_destination_is_not_VF : (0x0 : Reg) ≠ vf ∧ (0xE : Reg) ≠ vf := by decide

theorem witness_ShiftSourceSelectsTheOperand :
    base.params.shiftSource = .vx ∧ (under fun p => { p with shiftSource := .vy }).params.shiftSource = .vy := by decide

theorem witness_AddToIndexSetsVfPastFff :
    0xFFF < (atI 0xFFF).i.toNat + (((atI 0xFFF).setV 0x1 1).getV 0x1).toNat ∧
      ¬0xFFF < (atI 0xFFF).i.toNat + ((atI 0xFFF).getV 0x1).toNat := by decide

theorem witness_BcdStoresThreeDigits : (atI 0xFFD).MemCanonical ∧ (atI 0xFFD).i.toNat + 2 ≤ 0xFFF := ⟨rfl, by decide⟩

/-- For StoreCopiesRegistersToMemory, LoadCopiesMemoryToRegisters, StoreThenLoadGivesRegistersBack. -/
theorem witness_StoreAndLoad :
    ((atI 0xFF0).MemCanonical ∧ (atI 0xFF0).i.toNat + (0xF : Reg).toNat ≤ 0xFFF) ∧
      ((atI 0xFFF).MemCanonical ∧ (atI 0xFFF).i.toNat + (0x0 : Reg).toNat ≤ 0xFFF) ∧
      ((0xF : Reg).toNat ≤ (0xF : Reg).toNat ∧ (0x0 : Reg).toNat < (0x1 : Reg).toNat) :=
  ⟨⟨rfl, by decide⟩, ⟨rfl, by decide⟩, by decide⟩

theorem witness_StoredWordIsFetched :
    (atI 0xFFE).MemCanonical ∧ (atI 0xFFE).i.toNat + (0x1 : Reg).toNat ≤ 0xFFF ∧
      (0x0 : Reg).toNat + 1 = (0x1 : Reg).toNat ∧ (0x1 : Reg).toNat ≤ (0x1 : Reg).toNat ∧
      ((atI 0xFFE).i.toNat + (0x0 : Reg).toNat) % 2 = 0 := ⟨rfl, by decide⟩

theorem witness_OutOfRangeAccessFaults :
    0xFFF < (atI 0xFFE).i.toNat + 2 ∧ 0xFFF < (atI 0xFFF).i.toNat + (0x1 : Reg).toNat ∧
      (0 < (0x1 : Nibble).toNat ∧ 0xFFF < (atI 0x1000).i.toNat + (0x1 : Nibble).toNat - 1) ∧
      (0 < (0xF : Nibble).toNat ∧ 0xFFF < (atI 0xFFFF).i.toNat + (0xF : Nibble).toNat - 1) := by decide

/-- A sprite row 0x80 at (0, 0), on a screen where that pixel is lit and on one where it is not; no rows at all. -/
theorem witness_DrawXorsTheSprite :
    (atI 0xFFF).i.toNat + (0x1 : Nibble).toNat - 1 ≤ 0xFFF ∧ (0x0 : Nibble).toNat = 0 ∧
      (∃ p, ((atI 0xFFF).writeByte 0xFFF 0x80).SpriteCovers 0 0 1 p ∧ (base.fb.flip ⟨0, 0⟩).lit p = true) ∧
      (∀ p, (atI 0xFFFF).SpriteCovers 0 0 0 p → base.fb.lit p = false) :=
  ⟨by decide, by decide, ⟨⟨0, 0⟩, ⟨0, 0, by decide, by decide, by decide, rfl, rfl⟩, by decide +kernel⟩,
    fun _ ⟨_, _, h, _⟩ => absurd h (Nat.not_lt_zero _)⟩

/-- Each value of DrawEdge at the corner of the screen (R194). -/
theorem witness_each_DrawEdge :
    LandsOn .clip 63 31 0 0 ⟨63, 31⟩ ∧ (∀ p, ¬LandsOn .clip 63 31 1 0 p) ∧ (∀ p, ¬LandsOn .clip 0 32 0 0 p) ∧
      LandsOn .wrapStart 64 32 0 0 ⟨0, 0⟩ ∧ (∀ p, ¬LandsOn .wrapStart 63 31 0 1 p) ∧
      LandsOn .wrapAll 63 31 1 1 ⟨0, 0⟩ :=
  ⟨⟨rfl, rfl⟩, fun p ⟨h, _⟩ => by have := p.x.isLt; omega, fun p ⟨_, h⟩ => by have := p.y.isLt; omega, ⟨rfl, rfl⟩,
    fun p ⟨_, h⟩ => by have := p.y.isLt; omega, rfl, rfl⟩

theorem witness_DrawingTwiceRestoresTheScreen :
    (base.i.toNat + (0x5 : Nibble).toNat - 1 ≤ 0xFFF) ∧
      ∃ t, exec (.drw 0x0 0x0 0x5) base = .next t ∧ t.getV 0x0 = base.getV 0x0 :=
  ⟨by decide, _, rfl, by decide +kernel⟩

theorem witness_ClippedStartDrawsNothing :
    base.params.drawEdge = .clip ∧ base.i.toNat + (0x5 : Nibble).toNat - 1 ≤ 0xFFF ∧
      64 ≤ ((base.setV 0x1 64).getV 0x1).toNat ∧ 32 ≤ ((base.setV 0x1 32).getV 0x1).toNat := by decide

theorem witness_OnlyClsAndDrwSetDirty :
    base.Running ∧ (∃ t, exec .cls base = .next t ∧ Instr.cls.writesFrame = true ∧ t.fault = none) ∧
      ∃ t, exec (.jp 0x200) base = .next t ∧ (Instr.jp 0x200).writesFrame = false :=
  ⟨rfl, ⟨_, rfl, rfl, rfl⟩, _, rfl, rfl⟩

theorem witness_KeySkipsTestTheKey :
    ((base.setV 0x1 0xF).getV 0x1).toNat ≤ 0xF ∧
      ((under fun p => { p with keyIndexPolicy := .mask }).setV 0x1 0xFF).params.keyIndexPolicy = .mask ∧
      (base.keys.getLsbD 15 = false ∧ ({ base with keys := 0x8000 } : State).keys.getLsbD 15 = true) := by decide

theorem witness_KeyIndexAboveFFaults :
    0xF < ((base.setV 0x1 0x10).getV 0x1).toNat ∧ (base.setV 0x1 0x10).params.keyIndexPolicy = .fault := by decide

/-- For DelayTimerIsReadBeforeTheTick, TimerWritesThenTick, AwaitKeyWaitsWhileTimersTick. -/
theorem witness_timers_and_keys_fetched :
    ((placed 0xF307).Running ∧ (placed 0xF307).Fetches (.ldVxDt 0x3)) ∧
      ((placed 0xF315).Running ∧ (placed 0xF315).Fetches (.ldDtVx 0x3)) ∧
      ((placed 0xF318).Running ∧ (placed 0xF318).Fetches (.ldStVx 0x3)) ∧
      ((placed 0xF30A).Running ∧ (placed 0xF30A).Fetches (.ldVxK 0x3) ∧ (placed 0xF30A).beginStep.keys = 0 ∧
        (placed 0xF30A).keys = 0) :=
  ⟨⟨rfl, .inl (by decide), by decide, by decide⟩, ⟨rfl, .inl (by decide), by decide, by decide⟩,
    ⟨rfl, .inl (by decide), by decide, by decide⟩, rfl, ⟨.inl (by decide), by decide, by decide⟩, rfl, rfl⟩

theorem witness_AwaitKeyStoresAPressedKey :
    ({ base with keys := 0x8001 } : State).keys ≠ 0 ∧
      (under fun p => { p with keySelect := .lowestPressed }).params.keySelect = .lowestPressed := by decide

theorem witness_EveryPressedKeyMayBeStored :
    ({ base with keys := 0x8001 } : State).params.keySelect = .anyPressed ∧
      ({ base with keys := 0x8001 } : State).keys.getLsbD (15 : Fin 16).val = true := by decide

theorem witness_EveryInstructionObeysItsPcRule :
    base.Running ∧ ∃ t, exec (.call 0x300) base = .next t ∧ t.fault = none := ⟨rfl, _, rfl, rfl⟩

theorem witness_OnlyListedRegistersAreWritten :
    (∃ t, exec (.ldImm 0x1 0) base = .next t ∧ (Instr.ldImm 0x1 0).mayWrite 0x2 = false) ∧
      ∃ t, exec (.ldLoad 0x3) base = .next t ∧ (Instr.ldLoad 0x3).mayWrite 0x4 = false :=
  ⟨⟨_, rfl, by decide⟩, _, rfl, by decide⟩

theorem witness_OnlyListedInstructionsWriteState :
    ∃ t, exec .cls base = .next t ∧ Instr.cls.writesIndex = false ∧ Instr.cls.writesStack = false ∧
      Instr.cls.writesSp = false ∧ Instr.cls.writesDt = false ∧ Instr.cls.writesSt = false ∧
      Instr.cls.writesMemory = false := ⟨_, rfl, rfl, rfl, rfl, rfl, rfl, rfl⟩

theorem witness_NoInstructionReadsTheSoundTimer : ∃ t, exec (.ldVxDt 0x1) base = .next t := ⟨_, rfl⟩

theorem witness_StepKeepsMemoryCanonical :
    (placed 0xF055).mem ≠ [] ∧ (placed 0xF055).MemCanonical ∧ ∃ t, step (placed 0xF055) = .next t :=
  ⟨by decide, rfl, _, rfl⟩

theorem witness_StepKeepsPcBounded :
    (base.setPc 0x10FE).PcBounded ∧ ∃ t, step (base.setPc 0x10FE) = .next t :=
  ⟨⟨by decide, by decide⟩, _, rfl⟩

end Sys2Proof.Tests
end

/-! PROOFS. The family 10_state: how Execute advances pc (R25). -/

namespace Sys2Proof.Machine

variable {s t : State}

/-! ## Target addresses (R72, R128) -/

@[simp] theorem toNat_absolute (nnn : Addr12) : (absolute nnn).toNat = nnn.toNat :=
  BitVec.toNat_setWidth_of_le (by decide)

/-- The sum of a 12-bit address and a byte never wraps in 16 bits (R128). -/
theorem State.toNat_indexedByV0 (s : State) (nnn : Addr12) :
    (s.indexedByV0 nnn).toNat = nnn.toNat + (s.getV v0).toNat := by
  have hV0 : ((s.getV v0).setWidth 16).toNat = (s.getV v0).toNat := BitVec.toNat_setWidth_of_le (by decide)
  have hNNN := nnn.isLt
  have hByte := (s.getV v0).isLt
  rw [State.indexedByV0, BitVec.toNat_add, toNat_absolute, hV0]
  omega

theorem State.skipIf_pc_or (s : State) (c : Bool) : (s.skipIf c).pc = s.pc + 2 ∨ (s.skipIf c).pc = s.pc + 4 := by
  cases c
  · exact .inl rfl
  · exact .inr rfl

/-! ## The key awaited (R214) -/

theorem pressedKeys_eq_nil {keys : BitVec 16} : pressedKeys keys = [] ↔ keys = 0 := by
  rw [List.eq_nil_iff_forall_not_mem]
  constructor
  · intro h
    refine BitVec.eq_of_getLsbD_eq fun k hk => ?_
    simpa [mem_pressedKeys] using h ⟨k, hk⟩
  · rintro rfl k
    simp [mem_pressedKeys]

/-- LD Vx, K waits exactly when no key is pressed. -/
theorem State.awaitedKey_eq_none : s.awaitedKey = none ↔ s.keys = 0 :=
  selectKey_eq_none.trans pressedKeys_eq_nil

/-! ## The pc rule (R25) -/

section PcRule

variable {i : Instr} {u : State} {f : Fault}

/-- Execute's answer is one state, so the rule may be checked on any form of it. -/
theorem pcRule_of_exec_next (h : exec i s = .next t) (hu : exec i s = .next u) (hpc : i.pcRule s u.pc) :
    i.pcRule s t.pc := by
  cases h.symm.trans hu
  exact hpc

/-- An instruction that does not fault did not raise (R232). -/
theorem exec_ne_raise (h : exec i s = .next t) (hf : t.fault = none) : exec i s ≠ .next (s.raise f) := by
  intro hr
  cases h.symm.trans hr
  cases hf

end PcRule

/-- An instruction that does not fault obeys its pc rule, the cases those of R25. -/
theorem exec_obeys_pcRule {i : Instr} (h : exec i s = .next t) (hf : t.fault = none) : i.pcRule s t.pc := by
  cases i with
  | jp nnn => exact pcRule_of_exec_next h rfl (toNat_absolute nnn)
  | jpV0 nnn => exact pcRule_of_exec_next h rfl (s.toNat_indexedByV0 nnn)
  | call nnn =>
    by_cases hsp : s.sp.val < 16
    · exact pcRule_of_exec_next h (exec_call_below hsp) (toNat_absolute nnn)
    · exact absurd (exec_call_full hsp) (exec_ne_raise h hf)
  | ret =>
    by_cases hsp : 0 < s.sp.val
    · exact pcRule_of_exec_next h (exec_ret_active hsp) ⟨hsp, rfl⟩
    · exact absurd (exec_ret_empty hsp) (exec_ne_raise h hf)
  | seImm _ _ | sneImm _ _ | seReg _ _ | sneReg _ _ => exact pcRule_of_exec_next h rfl (s.skipIf_pc_or _)
  | skp x =>
    cases hk : keyIndex s.params.keyIndexPolicy (s.getV x) with
    | none => exact absurd (exec_skp_bad hk) (exec_ne_raise h hf)
    | some k => exact pcRule_of_exec_next h (exec_skp_key hk) (s.skipIf_pc_or _)
  | sknp x =>
    cases hk : keyIndex s.params.keyIndexPolicy (s.getV x) with
    | none => exact absurd (exec_sknp_bad hk) (exec_ne_raise h hf)
    | some k => exact pcRule_of_exec_next h (exec_sknp_key hk) (s.skipIf_pc_or _)
  | ldVxK x =>
    cases hk : s.awaitedKey with
    | none => exact pcRule_of_exec_next h (exec_ldVxK_waits hk) (if_pos (State.awaitedKey_eq_none.mp hk)).symm
    | some k =>
      have hkeys : s.keys ≠ 0 := fun h0 => by simp [State.awaitedKey_eq_none.mpr h0] at hk
      exact pcRule_of_exec_next h (exec_ldVxK_resolves hk) (if_neg hkeys).symm
  | sys nnn =>
    cases hp : s.params.sysPolicy with
    | fault => exact absurd (exec_sys_fault hp) (exec_ne_raise h hf)
    | nop => exact pcRule_of_exec_next h (exec_sys_nop hp) s.advance_pc
  | drw x y n =>
    cases hb : firstBadAddress s.i.toNat n.toNat with
    | some a => exact absurd (exec_drw_bad hb) (exec_ne_raise h hf)
    | none => exact pcRule_of_exec_next h (exec_drw_fits hb) rfl
  | ldB x =>
    cases hb : firstBadAddress s.i.toNat 3 with
    | some a => exact absurd (exec_ldB_bad hb) (exec_ne_raise h hf)
    | none => exact pcRule_of_exec_next h (exec_ldB_fits hb) (by simp [Instr.pcRule])
  | ldStore x =>
    cases hb : firstBadAddress s.i.toNat (x.toNat + 1) with
    | some a => exact absurd (exec_ldStore_bad hb) (exec_ne_raise h hf)
    | none => exact pcRule_of_exec_next h (exec_ldStore_fits hb) (by simp [Instr.pcRule])
  | ldLoad x =>
    cases hb : firstBadAddress s.i.toNat (x.toNat + 1) with
    | some a => exact absurd (exec_ldLoad_bad hb) (exec_ne_raise h hf)
    | none => exact pcRule_of_exec_next h (exec_ldLoad_fits hb) (by simp [Instr.pcRule])
  | cls | ldImm _ _ | addImm _ _ | ldReg _ _ | orReg _ _ | andReg _ _ | xorReg _ _ | addReg _ _ | sub _ _ | shr _ _
  | subn _ _ | shl _ _ | ldI _ | rnd _ _ | ldVxDt _ | ldDtVx _ | ldStVx _ | addI _ | ldF _ =>
    exact pcRule_of_exec_next h rfl rfl

/-- Settles O54, case by case over the instructions; that the machine was running before is not needed. -/
theorem everyInstructionObeysItsPcRule : Obligations.EveryInstructionObeysItsPcRule :=
  fun _ _ _ _ h hf => exec_obeys_pcRule h hf

end Sys2Proof.Machine

/-! PROOFS. The family 40_step_cycle: the step of a running machine, and the tick that ends it (R101, R105, R106). -/

namespace Sys2Proof.Machine

variable {s t : State} {i : Instr}

/-! ## A step that fetches an instruction (R52, R101) -/

/-- Where the instruction at pc is `i`, the fetch answers the word at pc: neither of its faults applies (R52). -/
theorem State.fetch_of_fetches (h : s.Fetches i) : s.fetch = .ok s.wordAtPc := by
  obtain ⟨hAligned, hRange, -⟩ := h
  obtain ⟨hOdd, hFault, -⟩ | ⟨-, hBeyond, -⟩ | ⟨-, -, hWord⟩ := s.fetch_cases
  · rw [hOdd, hFault] at hAligned
    exact absurd hAligned (by decide)
  · omega
  · exact hWord

theorem State.fetchInstr_of_fetches (h : s.Fetches i) : s.fetchInstr = .ok i := by
  have hFetch := State.fetch_of_fetches h
  obtain ⟨-, -, hDecode⟩ := h
  simp only [State.fetchInstr, hFetch, hDecode]

/-- Sampling the inputs first does not change which instruction is fetched (R101). -/
theorem step_of_fetches (hRunning : s.Running) (h : s.Fetches i) : step s = finishStep (exec i s.beginStep) := by
  have hNoFault : s.fault = none := hRunning
  simp only [step, hNoFault, State.fetchInstr_beginStep, State.fetchInstr_of_fetches h]

/-! ## The tick that ends a step (R105, R106) -/

theorem finishStep_of_no_fault (hf : t.fault = none) : finishStep (.next t) = .next t.tick :=
  congrArg Host.Outcome.next (if_pos hf)

/-- A step whose instruction does not fault is Execute's state with the timers ticked. -/
theorem step_eq_tick (hRunning : s.Running) (hFetches : s.Fetches i) (hExec : exec i s.beginStep = .next t)
    (hf : t.fault = none) : step s = .next t.tick := by
  rw [step_of_fetches hRunning hFetches, hExec, finishStep_of_no_fault hf]

theorem State.tick_tone_iff : t.tick.tone = true ↔ t.st = 1 := by
  rw [State.tick_tone, beq_iff_eq]

/-- Settles O13: such a step answers the ticked state, whose sound timer and tone are those of R106. -/
theorem completedStepTicksTheSoundTimer : Obligations.CompletedStepTicksTheSoundTimer := by
  intro s t i hRunning hFetches hExec hf
  exact ⟨t.tick, step_eq_tick hRunning hFetches hExec hf, toNat_tickTimer t.st, State.tick_tone_iff⟩

end Sys2Proof.Machine

/-! PROOFS. The family 41_control_flow: JP and the skips on an immediate (R122, R124, R125). -/

namespace Sys2Proof.Machine

variable {s : State} {i : Instr}

/-! ## Control transfers change pc only (R25) -/

theorem State.keptButPc_setPc (s : State) (a : Word) : KeptButPc s (s.setPc a) := ⟨rfl, s.readByte_setPc a⟩

/-- The skip assigns pc on both of its branches, and nothing else. -/
theorem State.keptButPc_skipIf (s : State) (c : Bool) : KeptButPc s (s.skipIf c) := by
  cases c with
  | false => exact s.keptButPc_setPc (s.pc + 2)
  | true => exact s.keptButPc_setPc (s.pc + 4)

/-- An instruction whose Execute is the skip on a test skips when the test decides its condition. -/
theorem skipsWhen_of_exec_skipIf {c : Bool} {condition : Prop} (hExec : exec i s = .next (s.skipIf c))
    (hTest : c = true ↔ condition) : SkipsWhen i condition s := by
  refine ⟨s.skipIf c, hExec, fun hMet => ?_, fun hUnmet => ?_, s.keptButPc_skipIf c⟩
  · rw [State.skipIf_pc, if_pos (hTest.mpr hMet)]
  · rw [State.skipIf_pc, if_neg (mt hTest.mp hUnmet)]

/-- Settles O20: Execute of JP assigns pc its zero-extended operand. -/
theorem jumpSetsPc : Obligations.JumpSetsPc :=
  fun nnn s => ⟨s.setPc (absolute nnn), rfl, toNat_absolute nnn, s.keptButPc_setPc (absolute nnn)⟩

/-- Settles O26: both forms are the skip on a test of Vx against NN. -/
theorem immediateSkipsCompare : Obligations.ImmediateSkipsCompare :=
  fun _ _ _ => ⟨skipsWhen_of_exec_skipIf rfl beq_iff_eq, skipsWhen_of_exec_skipIf rfl bne_iff_ne⟩

end Sys2Proof.Machine

/-! PROOFS. The family 42_register_alu: the immediate forms and the arithmetic of the ALU (R140, R141, R146 to R151). -/

namespace Sys2Proof.Machine

variable {s : State} {i : Instr} {x : Reg} {r : Byte} {c : Bool}

/-! ## What writing Vx, or Vx and VF, comes to (R22, R152) -/

theorem State.keptButRegs_setV_advance (s : State) (x : Reg) (r : Byte) : KeptButRegs s (s.setV x r).advance :=
  ⟨rfl, by simp⟩

theorem State.keptButRegs_setResultFlag_advance (s : State) (x : Reg) (r : Byte) (c : Bool) :
    KeptButRegs s (s.setResultFlag x r c).advance :=
  ⟨rfl, by simp⟩

/-- An instruction whose Execute writes Vx and advances pc writes that register alone. -/
theorem writesReg_of_exec_setV (hExec : exec i s = .next (s.setV x r).advance) : WritesReg i x r s :=
  ⟨(s.setV x r).advance, hExec, s.getV_setV_same x r, fun _ hq => s.getV_setV_other r hq, rfl,
    s.keptButRegs_setV_advance x r⟩

theorem toNat_flagByte (c : Bool) : (flagByte c).toNat = c.toNat := by
  cases c with
  | false => rfl
  | true => rfl

/-- An instruction whose Execute writes a result and a flag and advances pc; the result counts only where Vx is not VF, for
the flag is written last. -/
theorem writesRegAndFlag_of_exec_setResultFlag {result flag : Nat}
    (hExec : exec i s = .next (s.setResultFlag x r c).advance) (hResult : x ≠ vf → r.toNat = result)
    (hFlag : c.toNat = flag) : WritesRegAndFlag i x result flag s := by
  refine ⟨(s.setResultFlag x r c).advance, hExec, fun hx => ?_, ?_, fun q hqx hqf => ?_, rfl,
    s.keptButRegs_setResultFlag_advance x r c⟩
  · rw [State.getV_advance, State.getV_setResultFlag, if_neg hx, if_pos rfl, hResult hx]
  · rw [State.getV_advance, State.getV_setResultFlag, if_pos rfl, toNat_flagByte, hFlag]
  · rw [State.getV_advance, State.getV_setResultFlag, if_neg hqf, if_neg hqx]

/-! ## Results as numbers modulo 256 (R151) -/

/-- The difference, written with the subtraction of numbers kept from going below 0. -/
theorem toNat_byte_sub (a b : Byte) : (a - b).toNat = (256 + a.toNat - b.toNat) % 256 := by
  have hb := b.isLt
  rw [BitVec.toNat_sub]
  omega

theorem toNat_byte_ushiftRight_one (b : Byte) : (b >>> 1).toNat = b.toNat / 2 := by
  rw [BitVec.toNat_ushiftRight, Nat.shiftRight_one]

theorem toNat_byte_shiftLeft_one (b : Byte) : (b <<< 1).toNat = b.toNat * 2 % 256 := by
  rw [BitVec.toNat_shiftLeft, Nat.shiftLeft_eq]

/-! ## Flags as numbers (R146 to R150) -/

/-- The carry is bit 8 of the sum: two bytes sum to less than 512. -/
theorem toNat_carryFlag (a b : Byte) : (carryFlag a b).toNat = (a.toNat + b.toNat) / 256 := by
  have ha := a.isLt
  have hb := b.isLt
  by_cases hCarry : a.toNat + b.toNat > 255
  · rw [carryFlag, decide_eq_true hCarry, Bool.toNat_true]
    omega
  · rw [carryFlag, decide_eq_false hCarry, Bool.toNat_false]
    omega

/-- The flag of a difference is 1 exactly when the minuend is at least the subtrahend. -/
theorem toNat_notBorrowFlag (a b : Byte) : (notBorrowFlag a b).toNat = if b.toNat ≤ a.toNat then 1 else 0 := by
  by_cases hBorrow : b.toNat > a.toNat
  · rw [notBorrowFlag, decide_eq_true hBorrow, if_neg (Nat.not_le.mpr hBorrow)]
    rfl
  · rw [notBorrowFlag, decide_eq_false hBorrow, if_pos (Nat.not_lt.mp hBorrow)]
    rfl

theorem toNat_shiftedOutRight (b : Byte) : (shiftedOutRight b).toNat = b.toNat % 2 := by
  rw [shiftedOutRight, ← BitVec.testBit_toNat, Nat.toNat_testBit, pow_zero, Nat.div_one]

theorem toNat_shiftedOutLeft (b : Byte) : (shiftedOutLeft b).toNat = b.toNat / 128 := by
  have hb := b.isLt
  rw [shiftedOutLeft, ← BitVec.testBit_toNat, Nat.toNat_testBit]
  omega

/-! ## The instructions -/

/-- R141: the sum modulo 256, and no flag. -/
theorem addImm_writesReg (x : Reg) (nn : Byte) (s : State) :
    WritesReg (.addImm x nn) x (BitVec.ofNat 8 (((s.getV x).toNat + nn.toNat) % 256)) s := by
  have hSum : BitVec.ofNat 8 (((s.getV x).toNat + nn.toNat) % 256) = s.getV x + nn := by
    refine BitVec.eq_of_toNat_eq ?_
    rw [BitVec.toNat_add, BitVec.toNat_ofNat, Nat.mod_mod]
  rw [hSum]
  exact writesReg_of_exec_setV rfl

/-- Settles O28: Execute of either form writes Vx and advances pc. -/
theorem immediateLoadAndAdd : Obligations.ImmediateLoadAndAdd :=
  fun x nn s => ⟨writesReg_of_exec_setV rfl, addImm_writesReg x nn s⟩

/-- Settles O30: each form with a flag writes result, then flag, whose numbers are those above; that Vx is not VF is not
needed, since `WritesRegAndFlag` asks for the result only then. -/
theorem arithmeticWrapsAndSetsVf : Obligations.ArithmeticWrapsAndSetsVf := by
  intro x y nn s _
  refine ⟨addImm_writesReg x nn s, ?add, ?sub, ?subn, ?shr, ?shl⟩
  case add =>
    exact writesRegAndFlag_of_exec_setResultFlag rfl (fun _ => BitVec.toNat_add _ _) (toNat_carryFlag _ _)
  case sub =>
    exact writesRegAndFlag_of_exec_setResultFlag rfl (fun _ => toNat_byte_sub _ _) (toNat_notBorrowFlag _ _)
  case subn =>
    exact writesRegAndFlag_of_exec_setResultFlag rfl (fun _ => toNat_byte_sub _ _) (toNat_notBorrowFlag _ _)
  case shr =>
    exact writesRegAndFlag_of_exec_setResultFlag rfl (fun _ => toNat_byte_ushiftRight_one _) (toNat_shiftedOutRight _)
  case shl =>
    exact writesRegAndFlag_of_exec_setResultFlag rfl (fun _ => toNat_byte_shiftLeft_one _) (toNat_shiftedOutLeft _)

end Sys2Proof.Machine

/-! PROOFS. The family 43_index_memory: the loads of I (R170, R172). -/

namespace Sys2Proof.Machine

variable {s : State} {i : Instr} {a : Word} {n : Nat}

/-- Five times a byte never wraps in 16 bits, so the glyph of a value above 0xF lies past the font table (R172). -/
theorem toNat_glyphAddress (b : Byte) : (glyphAddress b).toNat = b.toNat * 5 := by
  have hByte := b.isLt
  rw [glyphAddress, BitVec.toNat_ofNat, Nat.mod_eq_of_lt (by omega)]

/-- An instruction whose Execute writes I and advances pc writes nothing else, and no byte of memory. -/
theorem writesIndex_of_exec_setI (hExec : exec i s = .next (s.setI a).advance) (hValue : a.toNat = n) :
    ∃ t, exec i s = .next t ∧ t.i.toNat = n ∧ t.pc = s.pc + 2 ∧ t = { s with i := t.i, pc := t.pc } ∧
      ∀ k, t.readByte k = s.readByte k := by
  refine ⟨(s.setI a).advance, hExec, hValue, rfl, rfl, fun k => ?_⟩
  rw [State.readByte_advance, State.readByte_setI]

/-- Settles O33: Execute of LD I writes its zero-extended operand, of LD F the address of Vx's glyph. -/
theorem indexLoadAndGlyph : Obligations.IndexLoadAndGlyph :=
  fun _ => ⟨fun nnn => writesIndex_of_exec_setI rfl (toNat_absolute nnn),
    fun _ => writesIndex_of_exec_setI rfl (toNat_glyphAddress _)⟩

end Sys2Proof.Machine

/-! PROOFS. The family 44_display: CLS, and who writes and reads the framebuffer and `dirty` (R190, R191, R196). -/

namespace Sys2Proof.Machine

variable {s t : State} {i : Instr}

/-! ## CLS and DRW, the writers (R191, R192) -/

theorem exec_cls : exec .cls s = .next (s.draw Framebuffer.blank).advance := rfl

/-- Settles O41: Execute of CLS draws the blank framebuffer and advances pc. -/
theorem clsClearsTheScreen : Obligations.ClsClearsTheScreen := by
  intro s
  refine ⟨(s.draw Framebuffer.blank).advance, exec_cls, Framebuffer.lit_blank, rfl, rfl, rfl, fun a => ?_⟩
  rw [State.readByte_advance, State.readByte_draw]

/-- A writer that does not fault goes through the framebuffer's write port, which sets `dirty` (R196). -/
theorem dirty_of_writesFrame (hWrites : i.writesFrame = true) (h : exec i s = .next t) (hf : t.fault = none) :
    t.dirty = true := by
  cases i with
  | cls =>
    cases h
    rfl
  | drw x y n =>
    cases hb : firstBadAddress s.i.toNat n.toNat with
    | some a => exact absurd (exec_drw_bad hb) (exec_ne_raise h hf)
    | none =>
      cases h.symm.trans (exec_drw_fits hb)
      rfl
  | _ => cases hWrites

/-! ## A state with another framebuffer and another `dirty` -/

/-- The state with its framebuffer and redraw flag replaced, whatever they were (R34, R35). -/
def State.withFrame (s : State) (fb : Framebuffer) (d : Bool) : State := { s with fb := fb, dirty := d }

section WithFrame

variable {fb : Framebuffer} {d : Bool}

theorem State.skipIf_withFrame (c : Bool) : (s.withFrame fb d).skipIf c = (s.skipIf c).withFrame fb d := by
  cases c with
  | false => rfl
  | true => rfl

theorem State.writeBytes_withFrame (a : Nat) (bs : List Byte) :
    (s.withFrame fb d).writeBytes a bs = (s.writeBytes a bs).withFrame fb d := by
  induction bs generalizing s a with
  | nil => rfl
  | cons b bs ih => exact ih (s := s.writeByte a b) (a + 1)

/-- Execute's answer is one state, so how it depends on the frame may be checked on any form of it. -/
theorem exec_withFrame_of_exec_next {t' : State} (h : exec i s = .next t) (ht' : exec i s = .next t')
    (hFrame : exec i (s.withFrame fb d) = .next (t'.withFrame fb d)) :
    exec i (s.withFrame fb d) = .next (t.withFrame fb d) := by
  cases h.symm.trans ht'
  exact hFrame

/-- The same for an answer given as a skip. -/
theorem exec_withFrame_of_exec_skipIf {c : Bool} (h : exec i s = .next t) (hSkip : exec i s = .next (s.skipIf c))
    (hFrame : exec i (s.withFrame fb d) = .next ((s.withFrame fb d).skipIf c)) :
    exec i (s.withFrame fb d) = .next (t.withFrame fb d) :=
  exec_withFrame_of_exec_next h hSkip (hFrame.trans (congrArg Host.Outcome.next (State.skipIf_withFrame c)))

/-- An instruction that does not write the frame carries it through: its answer on a state with another frame is its
answer with that frame. So it neither writes nor reads a pixel or `dirty`. -/
theorem exec_withFrame (hWrites : i.writesFrame = false) (h : exec i s = .next t) :
    exec i (s.withFrame fb d) = .next (t.withFrame fb d) := by
  cases i with
  | cls | drw _ _ _ => cases hWrites
  | sys nnn =>
    cases hp : s.params.sysPolicy with
    | fault => exact exec_withFrame_of_exec_next h (exec_sys_fault hp) (exec_sys_fault hp)
    | nop => exact exec_withFrame_of_exec_next h (exec_sys_nop hp) (exec_sys_nop hp)
  | call nnn =>
    by_cases hsp : s.sp.val < 16
    · exact exec_withFrame_of_exec_next h (exec_call_below hsp) (exec_call_below (s := s.withFrame fb d) hsp)
    · exact exec_withFrame_of_exec_next h (exec_call_full hsp) (exec_call_full hsp)
  | ret =>
    by_cases hsp : 0 < s.sp.val
    · exact exec_withFrame_of_exec_next h (exec_ret_active hsp) (exec_ret_active (s := s.withFrame fb d) hsp)
    · exact exec_withFrame_of_exec_next h (exec_ret_empty hsp) (exec_ret_empty hsp)
  | seImm _ _ | sneImm _ _ | seReg _ _ | sneReg _ _ => exact exec_withFrame_of_exec_skipIf h rfl rfl
  | skp x =>
    cases hk : keyIndex s.params.keyIndexPolicy (s.getV x) with
    | none => exact exec_withFrame_of_exec_next h (exec_skp_bad hk) (exec_skp_bad hk)
    | some k => exact exec_withFrame_of_exec_skipIf h (exec_skp_key hk) (exec_skp_key hk)
  | sknp x =>
    cases hk : keyIndex s.params.keyIndexPolicy (s.getV x) with
    | none => exact exec_withFrame_of_exec_next h (exec_sknp_bad hk) (exec_sknp_bad hk)
    | some k => exact exec_withFrame_of_exec_skipIf h (exec_sknp_key hk) (exec_sknp_key hk)
  | ldVxK x =>
    cases hk : s.awaitedKey with
    | none => exact exec_withFrame_of_exec_next h (exec_ldVxK_waits hk) (exec_ldVxK_waits hk)
    | some k => exact exec_withFrame_of_exec_next h (exec_ldVxK_resolves hk) (exec_ldVxK_resolves hk)
  | ldB x =>
    cases hb : firstBadAddress s.i.toNat 3 with
    | some a => exact exec_withFrame_of_exec_next h (exec_ldB_bad hb) (exec_ldB_bad hb)
    | none =>
      refine exec_withFrame_of_exec_next h (exec_ldB_fits hb) ((exec_ldB_fits (s := s.withFrame fb d) hb).trans ?_)
      rw [State.writeBytes_withFrame]
      rfl
  | ldStore x =>
    cases hb : firstBadAddress s.i.toNat (x.toNat + 1) with
    | some a => exact exec_withFrame_of_exec_next h (exec_ldStore_bad hb) (exec_ldStore_bad hb)
    | none =>
      refine exec_withFrame_of_exec_next h (exec_ldStore_fits hb)
        ((exec_ldStore_fits (s := s.withFrame fb d) hb).trans ?_)
      rw [State.writeBytes_withFrame]
      rfl
  | ldLoad x =>
    cases hb : firstBadAddress s.i.toNat (x.toNat + 1) with
    | some a => exact exec_withFrame_of_exec_next h (exec_ldLoad_bad hb) (exec_ldLoad_bad hb)
    | none => exact exec_withFrame_of_exec_next h (exec_ldLoad_fits hb) (exec_ldLoad_fits hb)
  | jp _ | jpV0 _ | ldImm _ _ | addImm _ _ | ldReg _ _ | orReg _ _ | andReg _ _ | xorReg _ _ | addReg _ _ | sub _ _
  | shr _ _ | subn _ _ | shl _ _ | ldI _ | rnd _ _ | ldVxDt _ | ldDtVx _ | ldStVx _ | addI _ | ldF _ =>
    exact exec_withFrame_of_exec_next h rfl rfl

end WithFrame

/-! ## `dirty` is written by the writers only and read by none (R196) -/

/-- Putting back the frame a state already has changes nothing, so what carries a frame through leaves it. -/
theorem frame_of_not_writesFrame (hWrites : i.writesFrame = false) (h : exec i s = .next t) :
    t.dirty = s.dirty ∧ t.fb = s.fb := by
  have hSame : exec i s = .next (t.withFrame s.fb s.dirty) := exec_withFrame hWrites h
  have hState : t = t.withFrame s.fb s.dirty := Host.Outcome.next.inj (h.symm.trans hSame)
  rw [hState]
  exact ⟨rfl, rfl⟩

/-- CLS and DRW do not read `dirty`: DRW's range check and its blit are over the rest of the state. -/
theorem exec_writer_ignores_dirty (hWrites : i.writesFrame = true) (h : exec i s = .next t) (d : Bool) :
    ∃ u, exec i { s with dirty := d } = .next u ∧ u = { t with dirty := u.dirty } := by
  cases i with
  | cls =>
    cases h
    exact ⟨_, exec_cls, rfl⟩
  | drw x y n =>
    cases hb : firstBadAddress s.i.toNat n.toNat with
    | some a =>
      cases h.symm.trans (exec_drw_bad hb)
      exact ⟨_, exec_drw_bad hb, rfl⟩
    | none =>
      cases h.symm.trans (exec_drw_fits hb)
      exact ⟨_, exec_drw_fits hb, rfl⟩
  | _ => cases hWrites

/-- Execute answers the same but for `dirty`, whatever `dirty` was. -/
theorem exec_ignores_dirty (h : exec i s = .next t) (d : Bool) :
    ∃ u, exec i { s with dirty := d } = .next u ∧ u = { t with dirty := u.dirty } := by
  cases hWrites : i.writesFrame with
  | true => exact exec_writer_ignores_dirty hWrites h d
  | false =>
    obtain ⟨-, hFb⟩ := frame_of_not_writesFrame hWrites h
    refine ⟨t.withFrame s.fb d, exec_withFrame hWrites h, ?_⟩
    rw [← hFb]
    rfl

/-- Settles O45, writers and readers apart; that the machine was running before is not needed. -/
theorem onlyClsAndDrwSetDirty : Obligations.OnlyClsAndDrwSetDirty :=
  fun _ _ _ _ h => ⟨fun hWrites hf => dirty_of_writesFrame hWrites h hf,
    fun hWrites => frame_of_not_writesFrame hWrites h, exec_ignores_dirty h⟩

end Sys2Proof.Machine

/-! PROOFS. The family 45_timers_keys_random: the read of the delay timer (R213). -/

namespace Sys2Proof.Machine

variable {s : State} {x : Reg}

theorem exec_ldVxDt (x : Reg) (s : State) : exec (.ldVxDt x) s = .next (s.setV x s.dt).advance := rfl

/-- Sampling the inputs leaves DT as it was, so the value stored is that from before the step; the tick comes after. -/
theorem step_ldVxDt (hRunning : s.Running) (hFetches : s.Fetches (.ldVxDt x)) :
    step s = .next (s.beginStep.setV x s.dt).advance.tick := by
  have hExec : exec (.ldVxDt x) s.beginStep = .next (s.beginStep.setV x s.dt).advance := by
    rw [exec_ldVxDt, State.beginStep_dt]
  exact step_eq_tick hRunning hFetches hExec (s.beginStep_fault.trans hRunning)

/-- Settles O49: Execute writes DT to Vx, and the tick that follows takes one from DT but leaves Vx. -/
theorem delayTimerIsReadBeforeTheTick : Obligations.DelayTimerIsReadBeforeTheTick := by
  intro x s
  refine ⟨writesReg_of_exec_setV (exec_ldVxDt x s), fun hRunning hFetches => ?_⟩
  refine ⟨_, step_ldVxDt hRunning hFetches, ?value, ?timer, ?pc⟩
  case value => rw [State.getV_tick, State.getV_advance, State.getV_setV_same]
  case timer =>
    have hDt : (s.beginStep.setV x s.dt).advance.dt = s.dt := s.beginStep_dt
    rw [State.tick_dt, hDt, toNat_tickTimer]
  case pc => exact congrArg (· + 2) s.beginStep_pc

end Sys2Proof.Machine

/-! PROOFS. The decoder and the encoder: what a word decodes to, said once, and the round trips between them (R70 to R79). -/

namespace Sys2Proof

/-! ## What a word decodes to (R73 to R78) -/

/-- The fields of the word that an instruction is read from: the family and the selectors of its row, and its operands. -/
def ReadsAs (loose : Bool) (w : Word) : Instr → Prop
  | .sys nnn => fieldOp w = 0x0#4 ∧ w ≠ 0x00E0#16 ∧ w ≠ 0x00EE#16 ∧ nnn = fieldNNN w
  | .cls => w = 0x00E0#16
  | .ret => w = 0x00EE#16
  | .jp nnn => fieldOp w = 0x1#4 ∧ nnn = fieldNNN w
  | .call nnn => fieldOp w = 0x2#4 ∧ nnn = fieldNNN w
  | .seImm x nn => fieldOp w = 0x3#4 ∧ x = fieldX w ∧ nn = fieldNN w
  | .sneImm x nn => fieldOp w = 0x4#4 ∧ x = fieldX w ∧ nn = fieldNN w
  | .seReg x y => fieldOp w = 0x5#4 ∧ (fieldN w = 0x0#4 ∨ loose = true) ∧ x = fieldX w ∧ y = fieldY w
  | .ldImm x nn => fieldOp w = 0x6#4 ∧ x = fieldX w ∧ nn = fieldNN w
  | .addImm x nn => fieldOp w = 0x7#4 ∧ x = fieldX w ∧ nn = fieldNN w
  | .ldReg x y => fieldOp w = 0x8#4 ∧ fieldN w = 0x0#4 ∧ x = fieldX w ∧ y = fieldY w
  | .orReg x y => fieldOp w = 0x8#4 ∧ fieldN w = 0x1#4 ∧ x = fieldX w ∧ y = fieldY w
  | .andReg x y => fieldOp w = 0x8#4 ∧ fieldN w = 0x2#4 ∧ x = fieldX w ∧ y = fieldY w
  | .xorReg x y => fieldOp w = 0x8#4 ∧ fieldN w = 0x3#4 ∧ x = fieldX w ∧ y = fieldY w
  | .addReg x y => fieldOp w = 0x8#4 ∧ fieldN w = 0x4#4 ∧ x = fieldX w ∧ y = fieldY w
  | .sub x y => fieldOp w = 0x8#4 ∧ fieldN w = 0x5#4 ∧ x = fieldX w ∧ y = fieldY w
  | .shr x y => fieldOp w = 0x8#4 ∧ fieldN w = 0x6#4 ∧ x = fieldX w ∧ y = fieldY w
  | .subn x y => fieldOp w = 0x8#4 ∧ fieldN w = 0x7#4 ∧ x = fieldX w ∧ y = fieldY w
  | .shl x y => fieldOp w = 0x8#4 ∧ fieldN w = 0xE#4 ∧ x = fieldX w ∧ y = fieldY w
  | .sneReg x y => fieldOp w = 0x9#4 ∧ (fieldN w = 0x0#4 ∨ loose = true) ∧ x = fieldX w ∧ y = fieldY w
  | .ldI nnn => fieldOp w = 0xA#4 ∧ nnn = fieldNNN w
  | .jpV0 nnn => fieldOp w = 0xB#4 ∧ nnn = fieldNNN w
  | .rnd x nn => fieldOp w = 0xC#4 ∧ x = fieldX w ∧ nn = fieldNN w
  | .drw x y n => fieldOp w = 0xD#4 ∧ x = fieldX w ∧ y = fieldY w ∧ n = fieldN w
  | .skp x => fieldOp w = 0xE#4 ∧ fieldNN w = 0x9E#8 ∧ x = fieldX w
  | .sknp x => fieldOp w = 0xE#4 ∧ fieldNN w = 0xA1#8 ∧ x = fieldX w
  | .ldVxDt x => fieldOp w = 0xF#4 ∧ fieldNN w = 0x07#8 ∧ x = fieldX w
  | .ldVxK x => fieldOp w = 0xF#4 ∧ fieldNN w = 0x0A#8 ∧ x = fieldX w
  | .ldDtVx x => fieldOp w = 0xF#4 ∧ fieldNN w = 0x15#8 ∧ x = fieldX w
  | .ldStVx x => fieldOp w = 0xF#4 ∧ fieldNN w = 0x18#8 ∧ x = fieldX w
  | .addI x => fieldOp w = 0xF#4 ∧ fieldNN w = 0x1E#8 ∧ x = fieldX w
  | .ldF x => fieldOp w = 0xF#4 ∧ fieldNN w = 0x29#8 ∧ x = fieldX w
  | .ldB x => fieldOp w = 0xF#4 ∧ fieldNN w = 0x33#8 ∧ x = fieldX w
  | .ldStore x => fieldOp w = 0xF#4 ∧ fieldNN w = 0x55#8 ∧ x = fieldX w
  | .ldLoad x => fieldOp w = 0xF#4 ∧ fieldNN w = 0x65#8 ∧ x = fieldX w

variable {loose : Bool} {w : Word} {i : Instr}

/-- The nibble that the other fifteen values leave. -/
theorem nibble_eq_F (n : Nibble) : n ≠ 0x0#4 → n ≠ 0x1#4 → n ≠ 0x2#4 → n ≠ 0x3#4 → n ≠ 0x4#4 → n ≠ 0x5#4 → n ≠ 0x6#4 →
    n ≠ 0x7#4 → n ≠ 0x8#4 → n ≠ 0x9#4 → n ≠ 0xA#4 → n ≠ 0xB#4 → n ≠ 0xC#4 → n ≠ 0xD#4 → n ≠ 0xE#4 → n = 0xF#4 := by
  intros
  bv_omega

theorem readsAs_of_decodeFamily0 (hOp : fieldOp w = 0x0#4) (h : decodeFamily0 w = .ok i) : ReadsAs loose w i := by
  unfold decodeFamily0 at h
  split at h
  · next hCls => cases h; exact hCls
  split at h
  · next hRet => cases h; exact hRet
  · next hCls hRet => cases h; exact ⟨hOp, hCls, hRet, rfl⟩

theorem decodeSkipReg_eq_ok {build : Reg → Reg → Instr} (h : decodeSkipReg loose w build = .ok i) :
    (fieldN w = 0x0#4 ∨ loose = true) ∧ i = build (fieldX w) (fieldY w) := by
  unfold decodeSkipReg at h
  split at h
  · next hN => cases h; exact ⟨hN, rfl⟩
  · cases h

theorem readsAs_of_decodeFamily8 (hOp : fieldOp w = 0x8#4) (h : decodeFamily8 w = .ok i) : ReadsAs loose w i := by
  unfold decodeFamily8 at h
  split at h <;> cases h <;> exact ⟨hOp, ‹_›, rfl, rfl⟩

theorem readsAs_of_decodeFamilyE (hOp : fieldOp w = 0xE#4) (h : decodeFamilyE w = .ok i) : ReadsAs loose w i := by
  unfold decodeFamilyE at h
  split at h <;> cases h <;> exact ⟨hOp, ‹_›, rfl⟩

theorem readsAs_of_decodeFamilyF (hOp : fieldOp w = 0xF#4) (h : decodeFamilyF w = .ok i) : ReadsAs loose w i := by
  unfold decodeFamilyF at h
  split at h <;> cases h <;> exact ⟨hOp, ‹_›, rfl⟩

/-- An instruction decoded is read from the word's fields. -/
theorem readsAs_of_decodeWord (h : decodeWord loose w = .ok i) : ReadsAs loose w i := by
  unfold decodeWord at h
  split at h
  case h_1 hOp => exact readsAs_of_decodeFamily0 hOp h
  case h_6 hOp | h_10 hOp =>
    obtain ⟨hN, rfl⟩ := decodeSkipReg_eq_ok h
    exact ⟨hOp, hN, rfl, rfl⟩
  case h_9 hOp => exact readsAs_of_decodeFamily8 hOp h
  case h_15 hOp => exact readsAs_of_decodeFamilyE hOp h
  case h_16 =>
    have hOp := nibble_eq_F (fieldOp w) ‹_› ‹_› ‹_› ‹_› ‹_› ‹_› ‹_› ‹_› ‹_› ‹_› ‹_› ‹_› ‹_› ‹_› ‹_›
    exact readsAs_of_decodeFamilyF hOp h
  case h_14 hOp => cases h; exact ⟨hOp, rfl, rfl, rfl⟩
  case h_4 hOp | h_5 hOp | h_7 hOp | h_8 hOp | h_13 hOp => cases h; exact ⟨hOp, rfl, rfl⟩
  case h_2 hOp | h_3 hOp | h_11 hOp | h_12 hOp => cases h; exact ⟨hOp, rfl⟩

theorem decodeWord_of_fieldOp_F (hOp : fieldOp w = 0xF#4) : decodeWord loose w = decodeFamilyF w := by
  simp [decodeWord, hOp]

/-- An instruction read from the word's fields is what the word decodes to. -/
theorem decodeWord_of_readsAs (h : ReadsAs loose w i) : decodeWord loose w = .ok i := by
  cases i with
  | sys nnn =>
    obtain ⟨hOp, hCls, hRet, rfl⟩ := h
    simp only [decodeWord, hOp, decodeFamily0, if_neg hCls, if_neg hRet]
  | cls | ret =>
    cases h
    rfl
  | jp _ | call _ | ldI _ | jpV0 _ =>
    obtain ⟨hOp, rfl⟩ := h
    simp only [decodeWord, hOp]
  | seImm _ _ | sneImm _ _ | ldImm _ _ | addImm _ _ | rnd _ _ =>
    obtain ⟨hOp, rfl, rfl⟩ := h
    simp only [decodeWord, hOp]
  | seReg _ _ | sneReg _ _ =>
    obtain ⟨hOp, hN, rfl, rfl⟩ := h
    simp only [decodeWord, hOp, decodeSkipReg, if_pos hN]
  | ldReg _ _ | orReg _ _ | andReg _ _ | xorReg _ _ | addReg _ _ | sub _ _ | shr _ _ | subn _ _ | shl _ _ =>
    obtain ⟨hOp, hN, rfl, rfl⟩ := h
    simp only [decodeWord, hOp, decodeFamily8, hN]
  | drw _ _ _ =>
    obtain ⟨hOp, rfl, rfl, rfl⟩ := h
    simp only [decodeWord, hOp]
  | skp _ | sknp _ =>
    obtain ⟨hOp, hNN, rfl⟩ := h
    simp only [decodeWord, hOp, decodeFamilyE, hNN]
  | ldVxDt _ | ldVxK _ | ldDtVx _ | ldStVx _ | addI _ | ldF _ | ldB _ | ldStore _ | ldLoad _ =>
    obtain ⟨hOp, hNN, rfl⟩ := h
    simp only [decodeWord_of_fieldOp_F hOp, decodeFamilyF, hNN]

/-- WHAT A WORD DECODES TO. -/
theorem decodeWord_eq_ok : decodeWord loose w = .ok i ↔ ReadsAs loose w i :=
  ⟨readsAs_of_decodeWord, decodeWord_of_readsAs⟩

/-! ## Decoding an encoded instruction -/

/-- The one check of `WellFormed`, on SYS's word: its NNN is neither that of CLS nor that of RET (R74). -/
theorem encode_sys_ne {nnn : Addr12} (h : WellFormed (.sys nnn)) :
    encode (.sys nnn) ≠ 0x00E0#16 ∧ encode (.sys nnn) ≠ 0x00EE#16 := by
  have hNNN : fieldNNN (encode (.sys nnn)) = nnn := fieldNNN_opNNN _ nnn
  constructor <;> intro hWord <;> rw [hWord] at hNNN <;> subst hNNN <;> exact absurd h (by decide)

/-- The fields of an instruction's word are the instruction's. -/
theorem readsAs_encode (loose : Bool) (h : WellFormed i) : ReadsAs loose (encode i) i := by
  cases i with
  | sys nnn =>
    obtain ⟨hCls, hRet⟩ := encode_sys_ne h
    exact ⟨fieldOp_opNNN _ nnn, hCls, hRet, (fieldNNN_opNNN _ nnn).symm⟩
  | cls | ret => exact rfl
  | _ => simp [ReadsAs, encode]

theorem decode_encodeBytes (rest : List Byte) (h : decodeWord loose (encode i) = .ok i) :
    decode loose (encodeBytes i ++ rest) = .ok (i, rest) := by
  simp only [encodeBytes, List.cons_append, List.nil_append, decode, wordOfBytes_highByte_lowByte, h]

/-- Settles O6: the fields of an encoded instruction are its own, and its bytes are those of its word. -/
theorem decodeOfEncodeIsTheInstruction : Obligations.DecodeOfEncodeIsTheInstruction :=
  fun loose _ rest h => decode_encodeBytes rest (decodeWord_eq_ok.mpr (readsAs_encode loose h))

/-! ## Encoding what a word decodes to -/

theorem word_of_op_NNN {op : Nibble} (hOp : fieldOp w = op) : (op ++ fieldNNN w : Word) = w := hOp ▸ word_opNNN w

theorem word_of_op_XNN {op : Nibble} {nn : Byte} (hOp : fieldOp w = op) (hNN : fieldNN w = nn) :
    (op ++ fieldX w ++ nn : Word) = w := hOp ▸ hNN ▸ word_opXNN w

theorem word_of_op_XYN {op n : Nibble} (hOp : fieldOp w = op) (hN : fieldN w = n) :
    (op ++ fieldX w ++ fieldY w ++ n : Word) = w := hOp ▸ hN ▸ word_opXYN w

theorem mask_FFF0 : ∀ k, k < 16 → (0xFFF0#16).getLsbD k = decide (4 ≤ k) := by decide

/-- Masking N away leaves the word with N = 0. -/
theorem word_with_N_zero (w : Word) : (fieldOp w ++ fieldX w ++ fieldY w ++ 0x0#4 : Word) = w &&& 0xFFF0#16 := by
  refine BitVec.eq_of_getLsbD_eq fun k hk => ?_
  conv_rhs => rw [← word_opXYN w]
  rw [BitVec.getLsbD_and, mask_FFF0 k hk, bit_opXYN, bit_opXYN]
  by_cases h4 : k < 4
  · simp [h4]
  · simp [h4, Nat.not_lt.mp h4]

theorem wellFormed_of_readsAs (h : ReadsAs loose w i) : WellFormed i := by
  cases i with
  | sys nnn =>
    obtain ⟨hOp, hCls, hRet, rfl⟩ := h
    have hWord := word_of_op_NNN hOp
    have hNotCls : fieldNNN w ≠ 0x0E0#12 := fun hn => hCls (by rw [← hWord, hn]; rfl)
    have hNotRet : fieldNNN w ≠ 0x0EE#12 := fun hn => hRet (by rw [← hWord, hn]; rfl)
    simp [WellFormed, Instr.wellFormed, hNotCls, hNotRet]
  | _ => rfl

/-- A skip on two registers encodes to its word, or to it with N = 0. -/
theorem skipReg_word {op : Nibble} (hOp : fieldOp w = op) (hN : fieldN w = 0x0#4 ∨ loose = true) :
    (op ++ fieldX w ++ fieldY w ++ 0x0#4 : Word) = w ∨
      (loose = true ∧ fieldN w ≠ 0 ∧ (op ++ fieldX w ++ fieldY w ++ 0x0#4 : Word) = w &&& 0xFFF0#16) := by
  by_cases h0 : fieldN w = 0x0#4
  · exact .inl (word_of_op_XYN hOp h0)
  · exact .inr ⟨hN.resolve_left h0, h0, hOp ▸ word_with_N_zero w⟩

/-- The word of an instruction read from a word is that word, but for the N of a skip on two registers. -/
theorem encode_of_readsAs (h : ReadsAs loose w i) :
    encode i = w ∨
      (loose = true ∧ fieldN w ≠ 0 ∧ ∃ x y, (i = .seReg x y ∨ i = .sneReg x y) ∧ encode i = w &&& 0xFFF0#16) := by
  cases i with
  | cls | ret => exact .inl h.symm
  | sys _ =>
    obtain ⟨hOp, -, -, rfl⟩ := h
    exact .inl (word_of_op_NNN hOp)
  | jp _ | call _ | ldI _ | jpV0 _ =>
    obtain ⟨hOp, rfl⟩ := h
    exact .inl (word_of_op_NNN hOp)
  | seImm _ _ | sneImm _ _ | ldImm _ _ | addImm _ _ | rnd _ _ =>
    obtain ⟨hOp, rfl, rfl⟩ := h
    exact .inl (word_of_op_XNN hOp rfl)
  | seReg x y =>
    obtain ⟨hOp, hN, rfl, rfl⟩ := h
    exact (skipReg_word hOp hN).imp_right fun ⟨hLoose, h0, hWord⟩ => ⟨hLoose, h0, _, _, .inl rfl, hWord⟩
  | sneReg x y =>
    obtain ⟨hOp, hN, rfl, rfl⟩ := h
    exact (skipReg_word hOp hN).imp_right fun ⟨hLoose, h0, hWord⟩ => ⟨hLoose, h0, _, _, .inr rfl, hWord⟩
  | ldReg _ _ | orReg _ _ | andReg _ _ | xorReg _ _ | addReg _ _ | sub _ _ | shr _ _ | subn _ _ | shl _ _ =>
    obtain ⟨hOp, hN, rfl, rfl⟩ := h
    exact .inl (word_of_op_XYN hOp hN)
  | drw _ _ _ =>
    obtain ⟨hOp, rfl, rfl, rfl⟩ := h
    exact .inl (word_of_op_XYN hOp rfl)
  | skp _ | sknp _ | ldVxDt _ | ldVxK _ | ldDtVx _ | ldStVx _ | addI _ | ldF _ | ldB _ | ldStore _ | ldLoad _ =>
    obtain ⟨hOp, hNN, rfl⟩ := h
    exact .inl (word_of_op_XNN hOp hNN)

/-- Settles O7: an instruction decoded has the fields of its word, so it is well-formed and its word is the one decoded. -/
theorem encodeOfDecodeIsTheWord : Obligations.EncodeOfDecodeIsTheWord :=
  fun _ _ _ h =>
    ⟨wellFormed_of_readsAs (decodeWord_eq_ok.mp h), encode_of_readsAs (decodeWord_eq_ok.mp h)⟩

/-! ## Words that match a row (R78) -/

open Laws.TableRow (masked_opNNN masked_opXNN_low masked_opXYN_low)

theorem fieldOp_ofNat (k : Nat) : fieldOp (BitVec.ofNat 16 k) = BitVec.ofNat 4 (k / 4096) := by
  refine BitVec.eq_of_toNat_eq ?_
  simp only [fieldOp, BitVec.extractLsb'_toNat, BitVec.toNat_ofNat, Nat.shiftRight_eq_div_pow]
  omega

theorem fieldN_ofNat (k : Nat) : fieldN (BitVec.ofNat 16 k) = BitVec.ofNat 4 k := by
  refine BitVec.eq_of_toNat_eq ?_
  simp only [fieldN, BitVec.extractLsb'_toNat, BitVec.toNat_ofNat, Nat.shiftRight_zero]
  omega

theorem fieldNN_ofNat (k : Nat) : fieldNN (BitVec.ofNat 16 k) = BitVec.ofNat 8 k := by
  refine BitVec.eq_of_toNat_eq ?_
  simp only [fieldNN, BitVec.extractLsb'_toNat, BitVec.toNat_ofNat, Nat.shiftRight_zero]
  omega

theorem fieldOp_of_mask_F000 {k : Nat} (h : w &&& 0xF000#16 = BitVec.ofNat 16 k) :
    fieldOp w = BitVec.ofNat 4 (k / 4096) := by
  rw [← fieldOp_ofNat, ← h, ← word_opNNN w, masked_opNNN, fieldOp_opNNN, fieldOp_opNNN]

theorem fields_of_mask_F00F {k : Nat} (h : w &&& 0xF00F#16 = BitVec.ofNat 16 k) :
    fieldOp w = BitVec.ofNat 4 (k / 4096) ∧ fieldN w = BitVec.ofNat 4 k := by
  rw [← fieldOp_ofNat, ← fieldN_ofNat, ← h, ← word_opXYN w, masked_opXYN_low]
  simp only [fieldOp_opXYN, fieldN_opXYN, and_self]

theorem fields_of_mask_F0FF {k : Nat} (h : w &&& 0xF0FF#16 = BitVec.ofNat 16 k) :
    fieldOp w = BitVec.ofNat 4 (k / 4096) ∧ fieldNN w = BitVec.ofNat 8 k := by
  rw [← fieldOp_ofNat, ← fieldNN_ofNat, ← h, ← word_opXNN w, masked_opXNN_low]
  simp only [fieldOp_opXNN, fieldNN_opXNN, and_self]

/-- A word in the row of SYS reads as SYS unless it is the word of CLS or of RET (R74). -/
theorem readsAs_of_family0 (loose : Bool) (hOp : fieldOp w = 0x0#4) :
    (w = 0x00E0#16 ∧ ReadsAs loose w .cls) ∨ (w = 0x00EE#16 ∧ ReadsAs loose w .ret) ∨
      ReadsAs loose w (.sys (fieldNNN w)) := by
  by_cases hCls : w = 0x00E0#16
  · exact .inl ⟨hCls, hCls⟩
  by_cases hRet : w = 0x00EE#16
  · exact .inr (.inl ⟨hRet, hRet⟩)
  · exact .inr (.inr ⟨hOp, hCls, hRet, rfl⟩)

/-- A word that matches an instruction's row decodes to an instruction of that row, CLS and RET taken before SYS. -/
theorem decodeWord_of_matches_row (loose : Bool) (h : w &&& rowMask i = rowMatch i) :
    ∃ j, decodeWord loose w = .ok j ∧ (rowMatch j = rowMatch i ∨
      (rowMatch i = 0x0000#16 ∧ ((w = 0x00E0#16 ∧ j = .cls) ∨ (w = 0x00EE#16 ∧ j = .ret)))) := by
  cases i with
  | sys _ =>
    obtain ⟨hCls, hReads⟩ | ⟨hRet, hReads⟩ | hReads := readsAs_of_family0 loose (fieldOp_of_mask_F000 h)
    · exact ⟨_, decodeWord_eq_ok.mpr hReads, .inr ⟨rfl, .inl ⟨hCls, rfl⟩⟩⟩
    · exact ⟨_, decodeWord_eq_ok.mpr hReads, .inr ⟨rfl, .inr ⟨hRet, rfl⟩⟩⟩
    · exact ⟨_, decodeWord_eq_ok.mpr hReads, .inl rfl⟩
  | cls => exact ⟨.cls, decodeWord_eq_ok.mpr (BitVec.and_allOnes.symm.trans h), .inl rfl⟩
  | ret => exact ⟨.ret, decodeWord_eq_ok.mpr (BitVec.and_allOnes.symm.trans h), .inl rfl⟩
  | jp _ | call _ | ldI _ | jpV0 _ | seImm _ _ | sneImm _ _ | ldImm _ _ | addImm _ _ | rnd _ _ | drw _ _ _ =>
    have hOp := fieldOp_of_mask_F000 h
    simp [decodeWord, hOp, rowMatch]
  | seReg _ _ | sneReg _ _ =>
    obtain ⟨hOp, hN⟩ := fields_of_mask_F00F h
    simp [decodeWord, hOp, decodeSkipReg, hN, rowMatch]
  | ldReg _ _ | orReg _ _ | andReg _ _ | xorReg _ _ | addReg _ _ | sub _ _ | shr _ _ | subn _ _ | shl _ _ =>
    obtain ⟨hOp, hN⟩ := fields_of_mask_F00F h
    simp [decodeWord, hOp, decodeFamily8, hN, rowMatch]
  | skp _ | sknp _ =>
    obtain ⟨hOp, hNN⟩ := fields_of_mask_F0FF h
    simp [decodeWord, hOp, decodeFamilyE, hNN, rowMatch]
  | ldVxDt _ | ldVxK _ | ldDtVx _ | ldStVx _ | addI _ | ldF _ | ldB _ | ldStore _ | ldLoad _ =>
    obtain ⟨hOp, hNN⟩ := fields_of_mask_F0FF h
    simp [decodeWord_of_fieldOp_F hOp, decodeFamilyF, hNN, rowMatch]

/-- Settles O8; that the instruction is well-formed is not needed. -/
theorem matchingWordsDecodeToTheirRow : Obligations.MatchingWordsDecodeToTheirRow :=
  fun loose _ _ _ h => decodeWord_of_matches_row loose h

/-! ## Words that are no instruction (R77, R79) -/

theorem decodeFamily0_ne_error (e : DecodeError) : decodeFamily0 w ≠ .error e := by
  unfold decodeFamily0
  split
  · nofun
  split
  · nofun
  · nofun

theorem decodeSkipReg_eq_error {build : Reg → Reg → Instr} :
    decodeSkipReg loose w build = .error (.unknownOpcode w) ↔ loose = false ∧ fieldN w ≠ 0x0#4 := by
  unfold decodeSkipReg
  split
  · next hN => exact iff_of_false nofun fun ⟨hLoose, h0⟩ => hN.elim h0 (by simp [hLoose])
  · next hN =>
    obtain ⟨h0, hLoose⟩ := not_or.mp hN
    exact iff_of_true rfl ⟨Bool.eq_false_of_not_eq_true hLoose, h0⟩

/-- The nibbles that select no row of family 0x8. -/
theorem nibble_mem_unused_of_family8 (n : Nibble) : n ≠ 0x0#4 → n ≠ 0x1#4 → n ≠ 0x2#4 → n ≠ 0x3#4 → n ≠ 0x4#4 →
    n ≠ 0x5#4 → n ≠ 0x6#4 → n ≠ 0x7#4 → n ≠ 0xE#4 → n ∈ [0x8#4, 0x9#4, 0xA#4, 0xB#4, 0xC#4, 0xD#4, 0xF#4] := by
  intros
  simp only [List.mem_cons, List.not_mem_nil, or_false]
  bv_omega

theorem decodeFamily8_eq_error :
    decodeFamily8 w = .error (.unknownOpcode w) ↔
      fieldN w ∈ [0x8#4, 0x9#4, 0xA#4, 0xB#4, 0xC#4, 0xD#4, 0xF#4] := by
  unfold decodeFamily8
  split
  case h_10 =>
    exact iff_of_true rfl (nibble_mem_unused_of_family8 _ ‹_› ‹_› ‹_› ‹_› ‹_› ‹_› ‹_› ‹_› ‹_›)
  all_goals
    next hN => exact iff_of_false nofun (by rw [hN]; decide)

theorem decodeFamilyE_eq_error : decodeFamilyE w = .error (.unknownOpcode w) ↔ fieldNN w ∉ [0x9E#8, 0xA1#8] := by
  unfold decodeFamilyE
  split
  case h_3 => exact iff_of_true rfl (by simp_all)
  all_goals
    next hNN => exact iff_of_false nofun (by rw [hNN]; decide)

theorem decodeFamilyF_eq_error :
    decodeFamilyF w = .error (.unknownOpcode w) ↔
      fieldNN w ∉ [0x07#8, 0x0A#8, 0x15#8, 0x18#8, 0x1E#8, 0x29#8, 0x33#8, 0x55#8, 0x65#8] := by
  unfold decodeFamilyF
  split
  case h_10 => exact iff_of_true rfl (by simp_all)
  all_goals
    next hNN => exact iff_of_false nofun (by rw [hNN]; decide)

/-- Settles O9, family by family: the other families hold an instruction for each of their words. -/
theorem unknownWordsAreExactlyTheListed : Obligations.UnknownWordsAreExactlyTheListed := by
  intro loose w
  unfold decodeWord
  split
  case h_1 hOp => simp [hOp, decodeFamily0_ne_error]
  case h_6 hOp | h_10 hOp => simp [hOp, decodeSkipReg_eq_error]
  case h_9 hOp => simp [hOp, decodeFamily8_eq_error]
  case h_15 hOp => simp [hOp, decodeFamilyE_eq_error]
  case h_16 =>
    have hOp := nibble_eq_F (fieldOp w) ‹_› ‹_› ‹_› ‹_› ‹_› ‹_› ‹_› ‹_› ‹_› ‹_› ‹_› ‹_› ‹_› ‹_› ‹_›
    simp [hOp, decodeFamilyF_eq_error]
  all_goals
    next hOp => simp [hOp]

/-- Settles O10, by evaluation. -/
theorem spelledOutWordsDecode : Obligations.SpelledOutWordsDecode := by
  unfold Obligations.SpelledOutWordsDecode
  decide

end Sys2Proof

/-! PROOFS. What Execute can do at all, said once, and what follows of every instruction: it completes, and writes only what
its row lists (R22, R23, R27 to R30, R50, R111). -/

namespace Sys2Proof.Machine

variable {s t : State} {i : Instr}

/-! ## The effects an instruction can have -/

/-- The faults an instruction can raise in a state (R120, R217, R233, R235, R236). -/
def State.Raises (s : State) : Instr → Fault → Prop
  | .sys nnn, f => f = .unknownOpcode (encode (.sys nnn))
  | .call _, f => s.sp.val = 16 ∧ f = .stackOverflow s.pc
  | .ret, f => s.sp.val = 0 ∧ f = .stackUnderflow s.pc
  | .skp x, f | .sknp x, f => 0xF < (s.getV x).toNat ∧ f = .keyIndexOutOfRange (s.getV x)
  | .drw _ _ _, f | .ldB _, f | .ldStore _, f | .ldLoad _, f => f = .addressOutOfRange (max s.i.toNat memSize)
  | _, _ => False

/-- The states Execute of an instruction can answer: one constructor for each part of the state it can write, with the
instruction's row allowing the write. -/
inductive Effect (s : State) (i : Instr) : State → Prop
  | fault {f : Fault} (hRaises : s.Raises i f) : Effect s i (s.raise f)
  | jump (a : Word) : Effect s i (s.setPc a)
  | register (x : Reg) (b : Byte) (hReg : ∀ r, i.mayWrite r = (r == x)) : Effect s i (s.setV x b).advance
  | registerAndFlag (x : Reg) (b : Byte) (c : Bool) (hReg : ∀ r, i.mayWrite r = (r == x || r == vf)) :
    Effect s i (s.setResultFlag x b c).advance
  | index (a : Word) (hIndex : i.writesIndex = true) : Effect s i (s.setI a).advance
  | indexAndFlag (a : Word) (c : Bool) (hIndex : i.writesIndex = true) (hReg : ∀ r, i.mayWrite r = (r == vf)) :
    Effect s i ((s.setI a).setFlag c).advance
  | store (bs : List Byte) (hMem : i.writesMemory = true) (hFits : s.i.toNat + bs.length ≤ memSize) :
    Effect s i (s.writeBytes s.i.toNat bs).advance
  | storeAndIndex (bs : List Byte) (a : Word) (hMem : i.writesMemory = true) (hFits : s.i.toNat + bs.length ≤ memSize)
    (hIndex : i.writesIndex = true) : Effect s i ((s.writeBytes s.i.toNat bs).setI a).advance
  | loadAndIndex (x : Reg) (a : Word) (hIndex : i.writesIndex = true)
    (hReg : ∀ r, i.mayWrite r = decide (r.toNat ≤ x.toNat)) : Effect s i ((s.loadRegsTo x s.i.toNat).setI a).advance
  | push (h : s.sp.val < 16) (a : Word) (hStack : i.writesStack = true) (hSp : i.writesSp = true) :
    Effect s i ((s.pushFrame s.pc h).setPc a)
  | pop (h : 0 < s.sp.val) (a : Word) (hSp : i.writesSp = true) : Effect s i ((s.popFrame h).setPc a)
  | delayTimer (b : Byte) (hDt : i.writesDt = true) : Effect s i (s.setDt b).advance
  | soundTimer (b : Byte) (hSt : i.writesSt = true) : Effect s i (s.setSt b).advance
  | clear (fb : Framebuffer) : Effect s i (s.draw fb).advance
  | drawAndFlag (fb : Framebuffer) (c : Bool) (hReg : ∀ r, i.mayWrite r = (r == vf)) :
    Effect s i ((s.draw fb).setFlag c).advance

/-- The skip is a jump, to one of its two targets. -/
theorem effect_skipIf (c : Bool) : Effect s i (s.skipIf c) := by
  cases c with
  | false => exact .jump (s.pc + 2)
  | true => exact .jump (s.pc + 4)

/-- A key index is missing only for a value above 0xF (R217). -/
theorem lt_of_keyIndex_eq_none {policy : KeyIndexPolicy} {b : Byte} (h : keyIndex policy b = none) : 0xF < b.toNat := by
  unfold keyIndex at h
  split at h
  · cases h
  · omega

/-- The first bad address is the base, or the end of memory for a base below it (R233). -/
theorem eq_max_of_firstBadAddress {base n a : Nat} (h : firstBadAddress base n = some a) : a = max base memSize :=
  (firstBadAddress_eq_some.mp h).2.2

/-- WHAT EXECUTE CAN DO AT ALL: it answers a next state, by one of the effects its instruction may have. -/
theorem exec_effect (i : Instr) (s : State) : ∃ t, exec i s = .next t ∧ Effect s i t := by
  cases i with
  | sys nnn =>
    cases hp : s.params.sysPolicy with
    | fault => exact ⟨_, exec_sys_fault hp, .fault rfl⟩
    | nop => exact ⟨_, exec_sys_nop hp, .jump (s.pc + 2)⟩
  | call nnn =>
    by_cases hsp : s.sp.val < 16
    · exact ⟨_, exec_call_below hsp, .push hsp _ rfl rfl⟩
    · exact ⟨_, exec_call_full hsp, .fault ⟨by have := s.sp.isLt; omega, rfl⟩⟩
  | ret =>
    by_cases hsp : 0 < s.sp.val
    · exact ⟨_, exec_ret_active hsp, .pop hsp _ rfl⟩
    · exact ⟨_, exec_ret_empty hsp, .fault ⟨by omega, rfl⟩⟩
  | jp _ | jpV0 _ => exact ⟨_, rfl, .jump _⟩
  | seImm _ _ | sneImm _ _ | seReg _ _ | sneReg _ _ => exact ⟨_, rfl, effect_skipIf _⟩
  | skp x =>
    cases hk : keyIndex s.params.keyIndexPolicy (s.getV x) with
    | none => exact ⟨_, exec_skp_bad hk, .fault ⟨lt_of_keyIndex_eq_none hk, rfl⟩⟩
    | some k => exact ⟨_, exec_skp_key hk, effect_skipIf _⟩
  | sknp x =>
    cases hk : keyIndex s.params.keyIndexPolicy (s.getV x) with
    | none => exact ⟨_, exec_sknp_bad hk, .fault ⟨lt_of_keyIndex_eq_none hk, rfl⟩⟩
    | some k => exact ⟨_, exec_sknp_key hk, effect_skipIf _⟩
  | ldImm _ _ | addImm _ _ | ldReg _ _ | orReg _ _ | andReg _ _ | xorReg _ _ | rnd _ _ | ldVxDt _ =>
    exact ⟨_, rfl, .register _ _ fun _ => rfl⟩
  | ldVxK x =>
    cases hk : s.awaitedKey with
    | none => exact ⟨_, exec_ldVxK_waits hk, .jump s.pc⟩
    | some k => exact ⟨_, exec_ldVxK_resolves hk, .register _ _ fun _ => rfl⟩
  | addReg _ _ | sub _ _ | shr _ _ | subn _ _ | shl _ _ => exact ⟨_, rfl, .registerAndFlag _ _ _ fun _ => rfl⟩
  | ldI _ | ldF _ => exact ⟨_, rfl, .index _ rfl⟩
  | addI _ => exact ⟨_, rfl, .indexAndFlag _ _ rfl fun _ => rfl⟩
  | ldDtVx _ => exact ⟨_, rfl, .delayTimer _ rfl⟩
  | ldStVx _ => exact ⟨_, rfl, .soundTimer _ rfl⟩
  | cls => exact ⟨_, rfl, .clear _⟩
  | drw x y n =>
    cases hb : firstBadAddress s.i.toNat n.toNat with
    | some a => exact ⟨_, exec_drw_bad hb, .fault (congrArg _ (eq_max_of_firstBadAddress hb))⟩
    | none => exact ⟨_, exec_drw_fits hb, .drawAndFlag _ _ fun _ => rfl⟩
  | ldB x =>
    cases hb : firstBadAddress s.i.toNat 3 with
    | some a => exact ⟨_, exec_ldB_bad hb, .fault (congrArg _ (eq_max_of_firstBadAddress hb))⟩
    | none =>
      have hFits := (firstBadAddress_eq_none.mp hb).resolve_left (by decide)
      exact ⟨_, exec_ldB_fits hb, .store _ rfl hFits⟩
  | ldStore x =>
    cases hb : firstBadAddress s.i.toNat (x.toNat + 1) with
    | some a => exact ⟨_, exec_ldStore_bad hb, .fault (congrArg _ (eq_max_of_firstBadAddress hb))⟩
    | none =>
      have hFits := (firstBadAddress_eq_none.mp hb).resolve_left (Nat.succ_ne_zero _)
      exact ⟨_, exec_ldStore_fits hb, .storeAndIndex _ _ rfl (by rwa [State.length_regsTo]) rfl⟩
  | ldLoad x =>
    cases hb : firstBadAddress s.i.toNat (x.toNat + 1) with
    | some a => exact ⟨_, exec_ldLoad_bad hb, .fault (congrArg _ (eq_max_of_firstBadAddress hb))⟩
    | none => exact ⟨_, exec_ldLoad_fits hb, .loadAndIndex _ _ rfl fun _ => rfl⟩

theorem effect_of_exec (h : exec i s = .next t) : Effect s i t := by
  obtain ⟨u, hu, hEffect⟩ := exec_effect i s
  cases h.symm.trans hu
  exact hEffect

/-- Settles O18: one of the effects is always had, and each of them is a state. -/
theorem everyInstructionAnswersANextState : Obligations.EveryInstructionAnswersANextState :=
  fun i s => (exec_effect i s).imp fun _ h => h.1

/-! ## Writers -/

/-- The general registers after an effect: one that the row does not list is as before (R22). -/
theorem Effect.getV_eq (h : Effect s i t) {r : Reg} (hr : i.mayWrite r = false) : t.getV r = s.getV r := by
  cases h with
  | register x b hReg =>
    have hx : r ≠ x := by simpa [hReg] using hr
    rw [State.getV_advance, State.getV_setV_other _ b hx]
  | registerAndFlag x b c hReg =>
    obtain ⟨hx, hf⟩ : r ≠ x ∧ r ≠ vf := by simpa [hReg] using hr
    rw [State.getV_advance, State.getV_setResultFlag, if_neg hf, if_neg hx]
  | indexAndFlag a c _ hReg | drawAndFlag fb c hReg =>
    have hf : r ≠ vf := by simpa [hReg] using hr
    rw [State.getV_advance, State.getV_setFlag, if_neg hf]
    rfl
  | loadAndIndex x a _ hReg =>
    have hx : ¬r.toNat ≤ x.toNat := by simpa [hReg] using hr
    rw [State.getV_advance, State.getV_setI, State.getV_loadRegsTo, if_neg hx]
  | store bs => rw [State.getV_advance, State.getV_writeBytes]
  | storeAndIndex bs a => rw [State.getV_advance, State.getV_setI, State.getV_writeBytes]
  | _ => rfl

/-- Settles O55: whatever the effect, a fault's included. -/
theorem onlyListedRegistersAreWritten : Obligations.OnlyListedRegistersAreWritten :=
  fun _ _ _ _ h hr => (effect_of_exec h).getV_eq hr

/-- Settles O56: each effect comes with the row that lists it, and leaves the rest as it was. -/
theorem onlyListedInstructionsWriteState : Obligations.OnlyListedInstructionsWriteState := by
  intro i s t h
  cases effect_of_exec h with
  | index a hIndex | indexAndFlag a c hIndex | loadAndIndex x a hIndex => simp [hIndex]
  | store bs hMem => simp [hMem]
  | storeAndIndex bs a hMem _ hIndex => simp [hMem, hIndex]
  | push h a hStack hSp => simp [hStack, hSp]
  | pop h a hSp => simp [hSp]
  | delayTimer b hDt => simp [hDt]
  | soundTimer b hSt => simp [hSt]
  | _ => simp

/-! ## ST is read by no instruction (R30) -/

section SoundTimer

variable {b : Byte}

/-- The answer with its state changed, for an answer that is a state. -/
def mapNext (g : State → State) : Result → Result
  | .next t => .next (g t)
  | o => o

theorem State.skipIf_setSt (c : Bool) : (s.setSt b).skipIf c = (s.skipIf c).setSt b := by
  cases c with
  | false => rfl
  | true => rfl

theorem State.writeBytes_setSt (a : Nat) (bs : List Byte) : (s.setSt b).writeBytes a bs = (s.writeBytes a bs).setSt b := by
  induction bs generalizing s a with
  | nil => rfl
  | cons c bs ih => exact ih (s := s.writeByte a c) (a + 1)

/-- An instruction that does not write ST carries it through: a value put into ST before Execute is there after it, and
nothing else differs. -/
theorem exec_setSt (hSt : i.writesSt = false) : exec i (s.setSt b) = mapNext (·.setSt b) (exec i s) := by
  cases i with
  | ldStVx _ => cases hSt
  | sys nnn =>
    cases hp : s.params.sysPolicy with
    | fault => rw [exec_sys_fault hp, exec_sys_fault (s := s.setSt b) hp]; rfl
    | nop => rw [exec_sys_nop hp, exec_sys_nop (s := s.setSt b) hp]; rfl
  | call nnn =>
    by_cases hsp : s.sp.val < 16
    · rw [exec_call_below hsp, exec_call_below (s := s.setSt b) hsp]; rfl
    · rw [exec_call_full hsp, exec_call_full (s := s.setSt b) hsp]; rfl
  | ret =>
    by_cases hsp : 0 < s.sp.val
    · rw [exec_ret_active hsp, exec_ret_active (s := s.setSt b) hsp]; rfl
    · rw [exec_ret_empty hsp, exec_ret_empty (s := s.setSt b) hsp]; rfl
  | seImm _ _ | sneImm _ _ | seReg _ _ | sneReg _ _ => exact congrArg Host.Outcome.next (State.skipIf_setSt _)
  | skp x =>
    cases hk : keyIndex s.params.keyIndexPolicy (s.getV x) with
    | none => rw [exec_skp_bad hk, exec_skp_bad (s := s.setSt b) hk]; rfl
    | some k => rw [exec_skp_key hk, exec_skp_key (s := s.setSt b) hk, State.skipIf_setSt]; rfl
  | sknp x =>
    cases hk : keyIndex s.params.keyIndexPolicy (s.getV x) with
    | none => rw [exec_sknp_bad hk, exec_sknp_bad (s := s.setSt b) hk]; rfl
    | some k => rw [exec_sknp_key hk, exec_sknp_key (s := s.setSt b) hk, State.skipIf_setSt]; rfl
  | ldVxK x =>
    cases hk : s.awaitedKey with
    | none => rw [exec_ldVxK_waits hk, exec_ldVxK_waits (s := s.setSt b) hk]; rfl
    | some k => rw [exec_ldVxK_resolves hk, exec_ldVxK_resolves (s := s.setSt b) hk]; rfl
  | drw x y n =>
    cases hb : firstBadAddress s.i.toNat n.toNat with
    | some a => rw [exec_drw_bad hb, exec_drw_bad (s := s.setSt b) hb]; rfl
    | none => rw [exec_drw_fits hb, exec_drw_fits (s := s.setSt b) hb]; rfl
  | ldB x =>
    cases hb : firstBadAddress s.i.toNat 3 with
    | some a => rw [exec_ldB_bad hb, exec_ldB_bad (s := s.setSt b) hb]; rfl
    | none => rw [exec_ldB_fits hb, exec_ldB_fits (s := s.setSt b) hb, State.writeBytes_setSt]; rfl
  | ldStore x =>
    cases hb : firstBadAddress s.i.toNat (x.toNat + 1) with
    | some a => rw [exec_ldStore_bad hb, exec_ldStore_bad (s := s.setSt b) hb]; rfl
    | none => rw [exec_ldStore_fits hb, exec_ldStore_fits (s := s.setSt b) hb, State.writeBytes_setSt]; rfl
  | ldLoad x =>
    cases hb : firstBadAddress s.i.toNat (x.toNat + 1) with
    | some a => rw [exec_ldLoad_bad hb, exec_ldLoad_bad (s := s.setSt b) hb]; rfl
    | none => rw [exec_ldLoad_fits hb, exec_ldLoad_fits (s := s.setSt b) hb]; rfl
  | cls | jp _ | jpV0 _ | ldImm _ _ | addImm _ _ | ldReg _ _ | orReg _ _ | andReg _ _ | xorReg _ _ | addReg _ _ | sub _ _
  | shr _ _ | subn _ _ | shl _ _ | ldI _ | rnd _ _ | ldVxDt _ | ldDtVx _ | addI _ | ldF _ => rfl

/-- LD ST, Vx writes over whatever ST held. -/
theorem exec_ldStVx_setSt (x : Reg) : exec (.ldStVx x) (s.setSt b) = exec (.ldStVx x) s := rfl

/-- Settles O57: the one instruction that writes ST writes over it, and every other carries it through. -/
theorem noInstructionReadsTheSoundTimer : Obligations.NoInstructionReadsTheSoundTimer := by
  intro i s t b h
  cases hSt : i.writesSt with
  | false => exact ⟨t.setSt b, (exec_setSt hSt).trans (by rw [h, mapNext]), rfl⟩
  | true =>
    cases i with
    | ldStVx x => exact ⟨t, (exec_ldStVx_setSt x).trans h, rfl⟩
    | _ => cases hSt

end SoundTimer

end Sys2Proof.Machine

/-! PROOFS. The step of the machine: its cases, the faults of fetch and decode, what a faulting step commits, and the two
invariants (R26, R52, R100, R101, R107, R230, R239). -/

namespace Sys2Proof.Machine

variable {s t : State} {i : Instr}

/-! ## The inputs sampled before the fetch (R108) -/

/-- Settles O12, by the two cases of the plan. -/
theorem inputsAreSampledFromThePlan : Obligations.InputsAreSampledFromThePlan := by
  intro s
  unfold State.beginStep State.hostTurn
  cases hPlan : s.plan with
  | nil => exact ⟨by simp, nofun, fun _ => ⟨rfl, rfl, rfl⟩⟩
  | cons turn rest =>
    refine ⟨rfl, fun turn' rest' h => ?_, nofun⟩
    cases h
    exact ⟨rfl, rfl, rfl, rfl, rfl⟩

/-! ## Fetch and decode (R52, R79) -/

theorem State.fetch_misaligned (hOdd : s.pc.getLsbD 0 = true) (hPolicy : s.params.oddPcPolicy = .fault) :
    s.fetch = .error (.misalignedFetch s.pc) := if_pos ⟨hOdd, hPolicy⟩

theorem State.not_misaligned (h : s.pc.getLsbD 0 = false ∨ s.params.oddPcPolicy = .fetch) :
    ¬(s.pc.getLsbD 0 = true ∧ s.params.oddPcPolicy = .fault) := by
  rintro ⟨hOdd, hPolicy⟩
  rw [hOdd, hPolicy] at h
  exact absurd h (by decide)

theorem State.fetch_beyond (hAligned : s.pc.getLsbD 0 = false ∨ s.params.oddPcPolicy = .fetch)
    (hBeyond : 0xFFF < s.pc.toNat + 1) : s.fetch = .error (.addressOutOfRange s.pc.toNat) :=
  (if_neg (State.not_misaligned hAligned)).trans (if_pos hBeyond)

theorem State.fetch_in_range (hAligned : s.pc.getLsbD 0 = false ∨ s.params.oddPcPolicy = .fetch)
    (hRange : s.pc.toNat + 1 ≤ 0xFFF) : s.fetch = .ok s.wordAtPc :=
  (if_neg (State.not_misaligned hAligned)).trans (if_neg (Nat.not_lt.mpr hRange))

theorem State.fetchInstr_of_fetch_error {f : Fault} (h : s.fetch = .error f) : s.fetchInstr = .error f := by
  simp only [State.fetchInstr, h]

theorem State.fetchInstr_of_unknown {w : Word} {e : DecodeError} (h : s.fetch = .ok w)
    (hDecode : decodeWord s.params.looseSkipReg w = .error e) : s.fetchInstr = .error (.unknownOpcode w) := by
  simp only [State.fetchInstr, h, hDecode]

/-- The faults that fetch and decode raise, in their order (R239). -/
inductive State.FetchFaults (s : State) : Fault → Prop
  | misaligned (hOdd : s.pc.getLsbD 0 = true) : s.FetchFaults (.misalignedFetch s.pc)
  | beyond (hBeyond : 0xFFF < s.pc.toNat + 1) : s.FetchFaults (.addressOutOfRange s.pc.toNat)
  | unknown : s.FetchFaults (.unknownOpcode s.wordAtPc)

/-- WHAT FETCH AND DECODE ANSWER: the instruction at pc, or one of their faults. -/
theorem State.fetchInstr_cases (s : State) :
    (∃ i, s.Fetches i ∧ s.fetchInstr = .ok i) ∨ ∃ f, s.FetchFaults f ∧ s.fetchInstr = .error f := by
  obtain ⟨hOdd, -, h⟩ | ⟨-, hBeyond, h⟩ | ⟨hAligned, hRange, h⟩ := s.fetch_cases
  · exact .inr ⟨_, .misaligned hOdd, State.fetchInstr_of_fetch_error h⟩
  · exact .inr ⟨_, .beyond hBeyond, State.fetchInstr_of_fetch_error h⟩
  · cases hDecode : decodeWord s.params.looseSkipReg s.wordAtPc with
    | ok i => exact .inl ⟨i, ⟨hAligned, hRange, hDecode⟩, State.fetchInstr_of_fetches ⟨hAligned, hRange, hDecode⟩⟩
    | error e => exact .inr ⟨_, .unknown, State.fetchInstr_of_unknown h hDecode⟩

/-! ## The cases of a step (R100, R101) -/

theorem step_of_fetch_fault {f : Fault} (hRunning : s.Running) (h : s.fetchInstr = .error f) :
    step s = .next (s.beginStep.raise f) := by
  have hNoFault : s.fault = none := hRunning
  simp only [step, hNoFault, State.fetchInstr_beginStep, h]

theorem step_of_halted {r : FaultRecord} (h : s.fault = some r) : step s = .fault r.cause := by
  simp only [step, h]

/-- A running machine's step: fetch or decode faults, or Execute ends with a fault, or it completes and the timers tick. -/
theorem step_of_running (hRunning : s.Running) :
    (∃ f, s.FetchFaults f ∧ step s = .next (s.beginStep.raise f)) ∨
      ∃ i t, s.Fetches i ∧ exec i s.beginStep = .next t ∧
        ((t.fault ≠ none ∧ step s = .next t) ∨ (t.fault = none ∧ step s = .next t.tick)) := by
  obtain ⟨i, hFetches, -⟩ | ⟨f, hFaults, hf⟩ := s.fetchInstr_cases
  · obtain ⟨t, hExec, -⟩ := exec_effect i s.beginStep
    refine .inr ⟨i, t, hFetches, hExec, ?_⟩
    have hStep := step_of_fetches hRunning hFetches
    rw [hExec] at hStep
    by_cases hf : t.fault = none
    · exact .inr ⟨hf, hStep.trans (finishStep_of_no_fault hf)⟩
    · exact .inl ⟨hf, hStep.trans (congrArg Host.Outcome.next (if_neg hf))⟩
  · exact .inl ⟨f, hFaults, step_of_fetch_fault hRunning hf⟩

theorem running_of_step_next (h : step s = .next t) : s.Running := by
  cases hf : s.fault with
  | none => exact hf
  | some r => cases (step_of_halted hf).symm.trans h

/-- WHAT A STEP CAN DO: every next state is one of the three. -/
theorem step_cases (h : step s = .next t) :
    (∃ f, s.FetchFaults f ∧ t = s.beginStep.raise f) ∨
      ∃ i u, s.Fetches i ∧ exec i s.beginStep = .next u ∧
        ((u.fault ≠ none ∧ t = u) ∨ (u.fault = none ∧ t = u.tick)) := by
  obtain ⟨f, hFaults, hStep⟩ | ⟨i, u, hFetches, hExec, hEnd⟩ := step_of_running (running_of_step_next h)
  · cases h.symm.trans hStep
    exact .inl ⟨f, hFaults, rfl⟩
  · refine .inr ⟨i, u, hFetches, hExec, ?_⟩
    obtain ⟨hf, hStep⟩ | ⟨hf, hStep⟩ := hEnd
    · cases h.symm.trans hStep
      exact .inl ⟨hf, rfl⟩
    · cases h.symm.trans hStep
      exact .inr ⟨hf, rfl⟩

/-- Settles O11. -/
theorem stepRunsTheDecodedInstruction : Obligations.StepRunsTheDecodedInstruction :=
  fun _ _ hRunning hFetches => step_of_fetches hRunning hFetches

/-- Settles O14: such a step answers the ticked state, which differs in the timers and the tone alone. -/
theorem completedStepTicksTheDelayTimer : Obligations.CompletedStepTicksTheDelayTimer := by
  intro s t i hRunning hFetches hExec hf
  exact ⟨t.tick, step_eq_tick hRunning hFetches hExec hf, toNat_tickTimer t.dt, rfl⟩

/-- Settles O17: a halted machine answers its recorded fault, a running one a next state. -/
theorem onlyAHaltedMachineStops : Obligations.OnlyAHaltedMachineStops := by
  intro s
  cases hf : s.fault with
  | some r => simp [step_of_halted hf]
  | none =>
    obtain ⟨t, hNext⟩ : ∃ t, step s = .next t := by
      obtain ⟨f, -, h⟩ | ⟨i, t, -, -, ⟨-, h⟩ | ⟨-, h⟩⟩ := step_of_running hf
      exacts [⟨_, h⟩, ⟨_, h⟩, ⟨_, h⟩]
    simp [hNext]

/-- Settles O16: each premise decides what the fetch, or the decoder after it, answers. -/
theorem fetchAndDecodeFaultInOrder : Obligations.FetchAndDecodeFaultInOrder := by
  intro s hRunning
  refine ⟨fun hOdd hPolicy => ?misaligned, fun hAligned hBeyond => ?beyond,
    fun w e hAligned hRange hw hDecode => ?unknown⟩
  case misaligned =>
    exact step_of_fetch_fault hRunning (State.fetchInstr_of_fetch_error (State.fetch_misaligned hOdd hPolicy))
  case beyond =>
    exact step_of_fetch_fault hRunning (State.fetchInstr_of_fetch_error (State.fetch_beyond hAligned hBeyond))
  case unknown =>
    subst hw
    exact step_of_fetch_fault hRunning (State.fetchInstr_of_unknown (State.fetch_in_range hAligned hRange) hDecode)

/-! ## What a faulting step commits (R107, R230, R232) -/

/-- An effect is a fault, or it leaves the fault status as it was. -/
theorem Effect.raises_or_keeps_fault (h : Effect s i t) : (∃ f, s.Raises i f ∧ t = s.raise f) ∨ t.fault = s.fault := by
  cases h with
  | fault hRaises => exact .inl ⟨_, hRaises, rfl⟩
  | _ => exact .inr (by simp)

theorem State.beginStep_raises (f : Fault) : s.beginStep.Raises i f ↔ s.Raises i f := by
  cases i <;> simp [State.Raises]

theorem mayRecord_of_fetchFaults {f : Fault} (h : s.FetchFaults f) : s.MayRecord f.code f.info := by
  cases h with
  | misaligned hOdd => exact .inr (.inr (.inl ⟨rfl, hOdd, rfl⟩))
  | beyond hBeyond => exact .inr (.inl ⟨rfl, .inl ⟨hBeyond, rfl⟩⟩)
  | unknown => exact .inl ⟨rfl, rfl⟩

/-- The fault of an instruction fetched is one of R230: the word recorded for SYS is the one fetched, and the register that
SKP and SKNP name is that of the word's field X. -/
theorem mayRecord_of_raises {f : Fault} (hFetches : s.Fetches i) (h : s.Raises i f) : s.MayRecord f.code f.info := by
  obtain ⟨-, -, hDecode⟩ := hFetches
  have hReads := decodeWord_eq_ok.mp hDecode
  cases i with
  | sys nnn =>
    obtain ⟨hOp, -, -, rfl⟩ := hReads
    cases h
    exact .inl ⟨rfl, congrArg BitVec.toNat (word_of_op_NNN hOp)⟩
  | call nnn =>
    obtain ⟨hsp, rfl⟩ := h
    exact .inr (.inr (.inr (.inl ⟨rfl, hsp, rfl⟩)))
  | ret =>
    obtain ⟨hsp, rfl⟩ := h
    exact .inr (.inr (.inr (.inr (.inl ⟨rfl, hsp, rfl⟩))))
  | skp x | sknp x =>
    obtain ⟨-, -, rfl⟩ := hReads
    obtain ⟨hKey, rfl⟩ := h
    exact .inr (.inr (.inr (.inr (.inr ⟨rfl, hKey, rfl⟩))))
  | drw _ _ _ | ldB _ | ldStore _ | ldLoad _ =>
    cases h
    exact .inr (.inl ⟨rfl, .inr rfl⟩)
  | _ => cases h

/-- Settles O15, by the cases of a step: of those, a fetch's fault and Execute's fault leave a record. -/
theorem faultingStepCommitsOnlyTheRecord : Obligations.FaultingStepCommitsOnlyTheRecord := by
  intro s u h hFault
  have hRunning : s.fault = none := running_of_step_next h
  obtain ⟨f, hFaults, rfl⟩ | ⟨i, t, hFetches, hExec, ⟨-, rfl⟩ | ⟨hNone, rfl⟩⟩ := step_cases h
  · exact ⟨f, rfl, mayRecord_of_fetchFaults hFaults⟩
  · obtain ⟨f, hRaises, rfl⟩ | hKept := (effect_of_exec hExec).raises_or_keeps_fault
    · exact ⟨f, rfl, mayRecord_of_raises hFetches ((State.beginStep_raises f).mp hRaises)⟩
    · exact absurd (hKept.trans (s.beginStep_fault.trans hRunning)) hFault
  · exact absurd hNone hFault

/-! ## Memory stays canonical -/

theorem State.memCanonical_congr (hMem : t.mem = s.mem) (hParams : t.params = s.params) (h : s.MemCanonical) :
    t.MemCanonical := by
  unfold State.MemCanonical
  rw [hMem, hParams]
  exact h

/-- Sequences of stores below 4096 keep the canonical form. -/
theorem State.memCanonical_writeBytes {base : Nat} {bs : List Byte} (h : s.MemCanonical)
    (hFits : base + bs.length ≤ memSize) : (s.writeBytes base bs).MemCanonical := by
  unfold State.MemCanonical
  rw [State.writeBytes_params]
  exact State.wf_writeBytes h hFits

theorem Effect.memCanonical (hEffect : Effect s i t) (h : s.MemCanonical) : t.MemCanonical := by
  cases hEffect with
  | store bs _ hFits => exact State.memCanonical_writeBytes h hFits
  | storeAndIndex bs a _ hFits => exact State.memCanonical_writeBytes h hFits
  | _ => exact State.memCanonical_congr (by simp) (by simp) h

/-- Settles O58: of what a step does, only the effects of an instruction write memory, and they store below 4096. -/
theorem stepKeepsMemoryCanonical : Obligations.StepKeepsMemoryCanonical := by
  intro s t h hStep
  have hBegin : s.beginStep.MemCanonical := State.memCanonical_congr s.beginStep_mem s.beginStep_params h
  obtain ⟨f, -, rfl⟩ | ⟨i, u, -, hExec, ⟨-, rfl⟩ | ⟨-, rfl⟩⟩ := step_cases hStep
  · exact hBegin
  · exact (effect_of_exec hExec).memCanonical hBegin
  · exact (effect_of_exec hExec).memCanonical hBegin

/-! ## pc and the return addresses stay bounded (R26, R121) -/

/-- The advance of an address at most 0xFFE does not wrap. -/
theorem toNat_add_two {a : Word} (h : a.toNat ≤ 0xFFE) : (a + 2).toNat = a.toNat + 2 := by
  rw [BitVec.toNat_add]
  exact Nat.mod_eq_of_lt (show a.toNat + 2 < 65536 by omega)

theorem toNat_add_four {a : Word} (h : a.toNat ≤ 0xFFE) : (a + 4).toNat = a.toNat + 4 := by
  rw [BitVec.toNat_add]
  exact Nat.mod_eq_of_lt (show a.toNat + 4 < 65536 by omega)

/-- The pc rule, from a pc that was fetched and return addresses that were: the greatest target is that of JP V0. -/
theorem pc_le_of_pcRule {pc : Word} (hPc : s.pc.toNat ≤ 0xFFE) (hStack : ∀ k : Fin 16, (s.stack[k]).toNat ≤ 0xFFE)
    (h : i.pcRule s pc) : pc.toNat ≤ 0x10FE := by
  have h2 := toNat_add_two hPc
  have h4 := toNat_add_four hPc
  cases i with
  | jp nnn | call nnn =>
    have hRule : pc.toNat = nnn.toNat := h
    have := nnn.isLt
    omega
  | jpV0 nnn =>
    have hRule : pc.toNat = nnn.toNat + (s.getV 0).toNat := h
    have hNNN := nnn.isLt
    have hByte := (s.getV 0).isLt
    omega
  | ret =>
    obtain ⟨hsp, rfl⟩ := h
    have hBelow : s.sp.val - 1 < 16 := by have := s.sp.isLt; omega
    have hTop : (s.stack[s.sp.val - 1]).toNat ≤ 0xFFE := hStack ⟨s.sp.val - 1, hBelow⟩
    have := toNat_add_two hTop
    omega
  | seImm _ _ | sneImm _ _ | seReg _ _ | sneReg _ _ | skp _ | sknp _ =>
    obtain rfl | rfl := h
    · omega
    · omega
  | ldVxK _ =>
    have hRule : pc = if s.keys = 0 then s.pc else s.pc + 2 := h
    split at hRule
    · subst hRule; omega
    · subst hRule; omega
  | _ =>
    have hRule : pc = s.pc + 2 := h
    subst hRule
    omega

/-- The one effect that writes the stack pushes pc. -/
theorem Effect.stack_le (hEffect : Effect s i t) {n : Nat} (hPc : s.pc.toNat ≤ n)
    (hStack : ∀ k : Fin 16, (s.stack[k]).toNat ≤ n) (k : Fin 16) : (t.stack[k]).toNat ≤ n := by
  cases hEffect with
  | push h a =>
    simp only [State.setPc_stack, State.pushFrame_stack, Fin.getElem_fin, Vector.getElem_set]
    split
    · exact hPc
    · exact hStack k
  | _ => simpa using hStack k

/-- Execute of an instruction fetched keeps the bounds: a fault leaves pc, and any other answer obeys the pc rule. -/
theorem pcBounded_of_exec (hRunning : s.Running) (hFetched : s.pc.toNat ≤ 0xFFE) (h : s.PcBounded)
    (hExec : exec i s = .next t) : t.PcBounded := by
  obtain ⟨hPc, hStack⟩ := h
  have hEffect := effect_of_exec hExec
  refine ⟨?_, hEffect.stack_le hFetched hStack⟩
  obtain ⟨f, -, rfl⟩ | hKept := hEffect.raises_or_keeps_fault
  · exact hPc
  · exact pc_le_of_pcRule hFetched hStack (exec_obeys_pcRule hExec (hKept.trans hRunning))

theorem State.pcBounded_congr (hPc : t.pc = s.pc) (hStack : t.stack = s.stack) (h : s.PcBounded) : t.PcBounded := by
  unfold State.PcBounded
  rw [hPc, hStack]
  exact h

/-- Settles O59: neither the sampling of the inputs nor the end of the step writes pc or the stack, and Execute runs only on
an instruction that was fetched, so at a pc of at most 0xFFE. -/
theorem stepKeepsPcBounded : Obligations.StepKeepsPcBounded := by
  intro s t h hStep
  have hRunning : s.beginStep.Running := s.beginStep_fault.trans (running_of_step_next hStep)
  have hBegin : s.beginStep.PcBounded := State.pcBounded_congr s.beginStep_pc s.beginStep_stack h
  obtain ⟨f, -, rfl⟩ | ⟨i, u, hFetches, hExec, hEnd⟩ := step_cases hStep
  · exact hBegin
  · obtain ⟨-, hRange, -⟩ := hFetches
    have hFetched : s.beginStep.pc.toNat ≤ 0xFFE := by
      rw [State.beginStep_pc]
      omega
    have hExecuted := pcBounded_of_exec hRunning hFetched hBegin hExec
    obtain ⟨-, rfl⟩ | ⟨-, rfl⟩ := hEnd
    · exact hExecuted
    · exact hExecuted

end Sys2Proof.Machine

/-! PROOFS. Reset and loading (R260 to R263), and the memory instructions (R171, R173 to R175): bytes stored and read back. -/

namespace Sys2Proof.Machine

variable {s t : State} {base : Nat} {bs : List Byte}

/-! ## What a sequence of stores leaves at an address (R53) -/

theorem State.readByte_writeBytes_inside (h : s.MemCanonical) (hFits : base + bs.length ≤ memSize) {k : Nat}
    (hk : k < bs.length) : (s.writeBytes base bs).readByte (base + k) = bs[k] := by
  rw [State.readByte_writeBytes h hFits, dif_pos ⟨by omega, by omega⟩]
  simp only [Nat.add_sub_cancel_left]

theorem State.readByte_writeBytes_outside (h : s.MemCanonical) (hFits : base + bs.length ≤ memSize) {a : Nat}
    (ha : a < base ∨ base + bs.length ≤ a) : (s.writeBytes base bs).readByte a = s.readByte a := by
  rw [State.readByte_writeBytes h hFits, dif_neg (by omega)]

/-! ## Construction (R260, R261) -/

/-- A constructed machine's memory lists no cell. -/
theorem readByte_construct (p : Params) (a : Nat) : (State.construct p).readByte a = Memory.initByte p.font a := rfl

theorem getV_construct (p : Params) (r : Reg) : (State.construct p).getV r = 0 := by
  simp [State.getV, State.construct]

theorem stack_construct (p : Params) (k : Fin 16) : (State.construct p).stack[k] = 0 := by
  simp [State.construct]

theorem memCanonical_construct (p : Params) : (State.construct p).MemCanonical := Memory.wf_nil

/-- Settles O1: the font is what the first 80 cells read as, and the rest is zeroed. -/
theorem resetLeavesTheStatedValues : Obligations.ResetLeavesTheStatedValues := by
  refine ⟨rfl, fun p => ⟨fun a h => ?font, fun a h => ?rest, rfl, getV_construct p, rfl, stack_construct p, rfl, rfl,
    rfl, Framebuffer.lit_blank, rfl⟩⟩
  case font => rw [readByte_construct, Memory.initByte, dif_pos h]
  case rest => rw [readByte_construct, Memory.initByte, dif_neg (by omega)]

/-- Settles O2. -/
theorem resetHasNoFaultAndNoKey : Obligations.ResetHasNoFaultAndNoKey :=
  fun _ => ⟨rfl, fun _ => BitVec.getLsbD_zero⟩

/-- Settles O60. -/
theorem invariantsHoldAtReset : Obligations.InvariantsHoldAtReset := by
  refine fun p => ⟨memCanonical_construct p, (by decide : (0x200 : Word).toNat ≤ 0x10FE), fun k => ?_⟩
  rw [stack_construct]
  decide

/-! ## The loader (R262) -/

theorem load_of_fits {image : List Byte} (hSteps : s.steps = 0) (hLength : image.length ≤ maxImage) :
    s.load image = .next (s.writeBytes 0x200 image) :=
  (if_neg (not_not.mpr hSteps)).trans (if_neg (Nat.not_lt.mpr hLength))

/-- Settles O3: the greatest image ends where memory does. -/
theorem loadPlacesTheImage : Obligations.LoadPlacesTheImage := by
  intro s image
  refine ⟨fun hSteps hLength h => ?placed, fun hSteps hLength => ?tooLong, fun hSteps => if_pos hSteps⟩
  case placed =>
    have hFits : 0x200 + image.length ≤ memSize := show _ ≤ 4096 by omega
    exact ⟨_, load_of_fits hSteps hLength, fun k hk => State.readByte_writeBytes_inside h hFits hk,
      fun a ha => State.readByte_writeBytes_outside h hFits ha, s.writeBytes_eq 0x200 image⟩
  case tooLong =>
    exact ⟨.invalidImageSize image.length, (if_neg (not_not.mpr hSteps)).trans (if_pos hLength), rfl, rfl, rfl⟩

/-- The word at pc, after bytes are stored there, is that of the first two. -/
theorem State.wordAtPc_writeBytes {hi lo : Byte} {rest : List Byte} (h : s.MemCanonical)
    (hFits : s.pc.toNat + (hi :: lo :: rest).length ≤ memSize) :
    (s.writeBytes s.pc.toNat (hi :: lo :: rest)).wordAtPc = wordOfBytes hi lo := by
  have hHi := State.readByte_writeBytes_inside h hFits (k := 0) (by simp)
  have hLo := State.readByte_writeBytes_inside h hFits (k := 1) (by simp)
  rw [State.wordAtPc, State.writeBytes_pc]
  exact congrArg₂ wordOfBytes hHi hLo

/-- Settles O4: the image lies where a constructed machine's pc points. -/
theorem firstFetchReadsTheImage : Obligations.FirstFetchReadsTheImage := by
  intro p hi lo rest hLength
  have hFits : (State.construct p).pc.toNat + (hi :: lo :: rest).length ≤ memSize :=
    show 0x200 + (rest.length + 2) ≤ 4096 by omega
  refine ⟨_, load_of_fits rfl hLength, ?_⟩
  rw [← State.wordAtPc_writeBytes (memCanonical_construct p) hFits]
  refine State.fetch_in_range (.inl ?even) ?range
  case even => rw [State.writeBytes_pc]; exact (by decide : (0x200 : Word).getLsbD 0 = false)
  case range => rw [State.writeBytes_pc]; exact (by decide : 0x200 + 1 ≤ 0xFFF)

/-! ## A word placed at pc (R52, R262) -/

theorem decodeTableWord_eq_some {w : Nat} {i : Instr} (h : decodeTableWord 16 w = some i) :
    decodeWord defaultParams.looseSkipReg (BitVec.ofNat 16 (w % 2 ^ 16)) = .ok i := by
  simp only [decodeTableWord, tableBytes, decode, wordOfBytes_highByte_lowByte] at h
  cases hDecode : decodeWord defaultParams.looseSkipReg (BitVec.ofNat 16 (w % 2 ^ 16)) with
  | ok j =>
    rw [hDecode] at h
    cases h
    rfl
  | error e =>
    rw [hDecode] at h
    cases h

/-- Where a fetch is in range, the bytes placed are stored at pc. -/
theorem State.placeAtPc_of_range (h : s.pc.toNat + 1 ≤ 0xFFF) : s.placeAtPc bs = s.writeBytes s.pc.toNat bs :=
  if_neg (Nat.not_lt.mpr h)

/-- A word placed at an even pc in canonical memory is the one fetched. -/
theorem fetches_withFetchWord {w : Nat} {i : Instr} (h : s.MemCanonical) (hEven : s.pc.getLsbD 0 = false)
    (hRange : s.pc.toNat + 1 ≤ 0xFFF)
    (hDecode : decodeWord s.params.looseSkipReg (BitVec.ofNat 16 (w % 2 ^ 16)) = .ok i) :
    (s.withFetchWord 16 w).Fetches i := by
  rw [State.withFetchWord, State.placeAtPc_of_range hRange]
  refine ⟨.inl ?even, ?range, ?decode⟩
  case even => rwa [State.writeBytes_pc]
  case range => rwa [State.writeBytes_pc]
  case decode =>
    rw [State.writeBytes_params, tableBytes, State.wordAtPc_writeBytes h, wordOfBytes_highByte_lowByte, hDecode]
    exact show s.pc.toNat + 2 ≤ 4096 by omega

/-- Settles O5. -/
theorem placedWordRunsFirst : Obligations.PlacedWordRunsFirst := by
  intro w i h
  have hRunning : (State.reset.withFetchWord 16 w).fault = State.reset.fault := State.writeBytes_fault _ _ _
  exact step_of_fetches hRunning
    (fetches_withFetchWord (memCanonical_construct defaultParams) rfl (by decide) (decodeTableWord_eq_some h))

/-! ## ADD I, Vx (R171) -/

/-- Settles O34. -/
theorem addToIndexSetsVfPastFff : Obligations.AddToIndexSetsVfPastFff := by
  intro x s
  refine ⟨_, rfl, BitVec.toNat_ofNat _ _, ?flag, fun q hq => ?others, rfl, rfl, fun a => by simp⟩
  case flag =>
    rw [State.getV_advance, State.getV_setFlag, if_pos rfl]
    simp [flagByte, indexOverflowFlag]
  case others =>
    rw [State.getV_advance, State.getV_setFlag, if_neg hq, State.getV_setI]

/-! ## LD B, Vx and LD [I], Vx (R173, R174) -/

/-- Settles O35. -/
theorem bcdStoresThreeDigits : Obligations.BcdStoresThreeDigits := by
  intro x s h hRange
  have hFits : s.i.toNat + (bcdDigits (s.getV x)).length ≤ memSize := by
    rw [length_bcdDigits]
    exact show _ ≤ 4096 by omega
  have hInside {k : Nat} (hk : k < 3) := State.readByte_writeBytes_inside h hFits (k := k) hk
  have hByte := (s.getV x).isLt
  refine ⟨_, exec_ldB_fits (firstBadAddress_eq_none.mpr (.inr hFits)), ?hundreds, ?tens, ?units, fun a ha => ?rest, ?pc,
    ?frame⟩
  case hundreds =>
    refine (congrArg BitVec.toNat (hInside (k := 0) (by decide))).trans ?_
    exact Nat.mod_eq_of_lt (by omega)
  case tens =>
    refine (congrArg BitVec.toNat (hInside (k := 1) (by decide))).trans ?_
    exact Nat.mod_eq_of_lt (by omega)
  case units =>
    refine (congrArg BitVec.toNat (hInside (k := 2) (by decide))).trans ?_
    exact Nat.mod_eq_of_lt (by omega)
  case rest =>
    rw [State.readByte_advance]
    exact State.readByte_writeBytes_outside h hFits (by rw [length_bcdDigits]; omega)
  case pc => simp
  case frame =>
    rw [State.writeBytes_eq]
    rfl

/-- I past a run of registers that ends below 4096, as a number: it does not wrap (R176 (c)). -/
theorem State.toNat_indexPast {x : Reg} (hRange : s.i.toNat + x.toNat ≤ 0xFFF) :
    (s.indexPast x).toNat = s.i.toNat + x.toNat + 1 :=
  Nat.mod_eq_of_lt (show _ < 65536 by omega)

/-- The registers V0 to Vx stored at I end below 4096. -/
theorem State.regsTo_fits {x : Reg} (hRange : s.i.toNat + x.toNat ≤ 0xFFF) :
    s.i.toNat + (s.regsTo x).length ≤ memSize := by
  rw [State.length_regsTo]
  exact show s.i.toNat + (x.toNat + 1) ≤ 4096 by omega

/-- The state LD [I], Vx leaves, where its range is in memory (R174). -/
def State.stored (s : State) (x : Reg) : State := ((s.writeBytes s.i.toNat (s.regsTo x)).setI (s.indexPast x)).advance

/-- The state LD Vx, [I] leaves, where its range is in memory (R175). -/
def State.loaded (s : State) (x : Reg) : State := ((s.loadRegsTo x s.i.toNat).setI (s.indexPast x)).advance

theorem firstBadAddress_of_range {x : Reg} (hRange : s.i.toNat + x.toNat ≤ 0xFFF) :
    firstBadAddress s.i.toNat (x.toNat + 1) = none :=
  firstBadAddress_eq_none.mpr (.inr (show s.i.toNat + (x.toNat + 1) ≤ 4096 by omega))

theorem exec_ldStore_of_range {x : Reg} (hRange : s.i.toNat + x.toNat ≤ 0xFFF) :
    exec (.ldStore x) s = .next (s.stored x) := exec_ldStore_fits (firstBadAddress_of_range hRange)

theorem exec_ldLoad_of_range {x : Reg} (hRange : s.i.toNat + x.toNat ≤ 0xFFF) :
    exec (.ldLoad x) s = .next (s.loaded x) := exec_ldLoad_fits (firstBadAddress_of_range hRange)

/-- Vr is stored at I + r. -/
theorem State.readByte_stored {x r : Reg} (h : s.MemCanonical) (hRange : s.i.toNat + x.toNat ≤ 0xFFF)
    (hr : r.toNat ≤ x.toNat) : (s.stored x).readByte (s.i.toNat + r.toNat) = s.getV r := by
  have hLength : r.toNat < (s.regsTo x).length := by
    rw [State.length_regsTo]
    omega
  rw [State.stored, State.readByte_advance, State.readByte_setI,
    State.readByte_writeBytes_inside h (State.regsTo_fits hRange) hLength]
  exact s.getElem_regsTo x r.toNat hLength r.isLt

/-- Settles O36. -/
theorem storeCopiesRegistersToMemory : Obligations.StoreCopiesRegistersToMemory := by
  intro x s h hRange
  refine ⟨s.stored x, exec_ldStore_of_range hRange, fun r hr => State.readByte_stored h hRange hr, fun a ha => ?rest,
    State.toNat_indexPast hRange, ?pc, ?frame⟩
  case rest =>
    rw [State.stored, State.readByte_advance, State.readByte_setI]
    exact State.readByte_writeBytes_outside h (State.regsTo_fits hRange) (by rw [State.length_regsTo]; omega)
  case pc => simp [State.stored]
  case frame =>
    rw [State.stored, State.writeBytes_eq]
    rfl

/-- Vr is loaded from I + r, up to Vx. -/
theorem State.getV_loaded (s : State) (x r : Reg) :
    (s.loaded x).getV r = if r.toNat ≤ x.toNat then s.readByte (s.i.toNat + r.toNat) else s.getV r := by
  rw [State.loaded, State.getV_advance, State.getV_setI, State.getV_loadRegsTo]

/-- Settles O37. -/
theorem loadCopiesMemoryToRegisters : Obligations.LoadCopiesMemoryToRegisters := by
  intro x s hRange
  refine ⟨s.loaded x, exec_ldLoad_of_range hRange, fun r hr => ?loaded, fun r hr => ?above,
    State.toNat_indexPast hRange, ?pc, ?frame, fun a => ?bytes⟩
  case loaded => rw [State.getV_loaded, if_pos hr]
  case above => rw [State.getV_loaded, if_neg (Nat.not_le.mpr hr)]
  case pc => simp [State.loaded]
  case frame =>
    simp only [State.loaded, State.loadRegsTo, State.setI, State.advance, State.setPc]
  case bytes => rw [State.loaded, State.readByte_advance, State.readByte_setI, State.readByte_loadRegsTo]

/-- Settles O38: the load reads the bytes that the store left, whatever the registers hold in between. -/
theorem storeThenLoadGivesRegistersBack : Obligations.StoreThenLoadGivesRegistersBack := by
  intro x s w h hRange
  have hLoads := exec_ldLoad_of_range (s := { s.stored x with v := w, i := s.i }) hRange
  refine ⟨s.stored x, _, exec_ldStore_of_range hRange, hLoads, fun r hr => ?back, State.toNat_indexPast hRange,
    State.toNat_indexPast (s := { s.stored x with v := w, i := s.i }) hRange⟩
  rw [State.getV_loaded, if_pos hr]
  exact State.readByte_stored h hRange hr

/-- An even number is an even address. -/
theorem getLsbD_zero_of_even {n : Nat} (h : n % 2 = 0) : (BitVec.ofNat 16 n).getLsbD 0 = false := by
  rw [BitVec.getLsbD_ofNat, Nat.testBit_zero, h]
  rfl

/-- Settles O39: the two bytes of the word are the two registers stored. -/
theorem storedWordIsFetched : Obligations.StoredWordIsFetched := by
  intro x r q s h hRange hNext hq hEven
  refine ⟨s.stored x, exec_ldStore_of_range hRange, ?_⟩
  have hPc : (BitVec.ofNat 16 (s.i.toNat + r.toNat)).toNat = s.i.toNat + r.toNat :=
    Nat.mod_eq_of_lt (show s.i.toNat + r.toNat < 65536 by omega)
  refine (State.fetch_in_range (.inl (getLsbD_zero_of_even hEven)) ?range).trans (congrArg Except.ok ?word)
  case range =>
    show (BitVec.ofNat 16 (s.i.toNat + r.toNat)).toNat + 1 ≤ 0xFFF
    omega
  case word =>
    have hHi := State.readByte_stored h hRange (show r.toNat ≤ x.toNat by omega)
    have hLo := State.readByte_stored h hRange hq
    rw [← hNext, ← Nat.add_assoc] at hLo
    show wordOfBytes ((s.stored x).readByte (BitVec.ofNat 16 (s.i.toNat + r.toNat)).toNat)
      ((s.stored x).readByte ((BitVec.ofNat 16 (s.i.toNat + r.toNat)).toNat + 1)) = _
    rw [hPc, hHi, hLo]

/-! ## Accesses that reach the end of memory (R56, R233) -/

/-- A run that passes the end of memory has a first bad address, and the range check finds it. -/
theorem firstBad_of_range {base n : Nat} (hn : n ≠ 0) (h : memSize < base + n) :
    FirstBad base n (max base memSize) ∧ firstBadAddress base n = some (max base memSize) := by
  refine ⟨⟨by omega, by omega, by omega, fun b _ _ => by omega⟩, firstBadAddress_eq_some.mpr ⟨hn, h, rfl⟩⟩

/-- Settles O40: the state left is that of a fault raised. -/
theorem outOfRangeAccessFaults : Obligations.OutOfRangeAccessFaults := by
  intro x y n s
  refine ⟨fun h => ?bcd, fun h => ?registers, fun hn h => ?sprite⟩
  case bcd =>
    obtain ⟨hFirst, hBad⟩ := firstBad_of_range (base := s.i.toNat) (n := 3) (by decide) (show 4096 < _ by omega)
    exact ⟨_, hFirst, exec_ldB_bad hBad⟩
  case registers =>
    obtain ⟨hFirst, hBad⟩ := firstBad_of_range (base := s.i.toNat) (Nat.succ_ne_zero x.toNat) (show 4096 < _ by omega)
    exact ⟨_, hFirst, exec_ldStore_bad hBad, exec_ldLoad_bad hBad⟩
  case sprite =>
    obtain ⟨hFirst, hBad⟩ := firstBad_of_range (base := s.i.toNat) (Nat.ne_of_gt hn) (show 4096 < _ by omega)
    exact ⟨_, hFirst, exec_drw_bad hBad⟩

end Sys2Proof.Machine

/-! PROOFS. Control flow (R120 to R129), the rest of the register forms (R142 to R152, R210), keys and timers (R211 to R217). -/

namespace Sys2Proof.Machine

variable {s t : State} {i : Instr}

/-! ## SYS, JP V0, CALL and RET (R120, R121, R123, R128) -/

theorem toNat_encode_sys (nnn : Addr12) : (encode (.sys nnn)).toNat = nnn.toNat := by
  have hAppend : (encode (.sys nnn)).toNat = (0x0#4 ++ nnn).toNat := rfl
  rw [hAppend, BitVec.toNat_append]
  simp

/-- Settles O19. -/
theorem sysFollowsItsPolicy : Obligations.SysFollowsItsPolicy :=
  fun nnn s => ⟨fun hp => ⟨_, toNat_encode_sys nnn, exec_sys_fault hp⟩,
    fun hp => ⟨s.advance, exec_sys_nop hp, rfl, s.keptButPc_setPc (s.pc + 2)⟩⟩

/-- Settles O21. -/
theorem jumpIndexedAddsV0 : Obligations.JumpIndexedAddsV0 :=
  fun nnn s => ⟨s.setPc (s.indexedByV0 nnn), rfl, s.toNat_indexedByV0 nnn, s.keptButPc_setPc (s.indexedByV0 nnn)⟩

/-- Settles O22. -/
theorem callPushesItsOwnAddress : Obligations.CallPushesItsOwnAddress := by
  intro nnn s h
  refine ⟨_, exec_call_below h, rfl, toNat_absolute nnn, fun k => ?_, rfl, fun a => by simp⟩
  simp only [State.setPc_stack, State.pushFrame_stack, Fin.getElem_fin, Vector.getElem_set]
  exact if_congr eq_comm rfl rfl

/-- Settles O23. -/
theorem retResumesPastTheCall : Obligations.RetResumesPastTheCall :=
  fun s h => ⟨(s.popFrame h).setPc (s.topFrame h + 2), exec_ret_active h, Nat.sub_add_cancel h, rfl, rfl,
    fun a => by simp⟩

/-- Settles O24: the frame on top is the address of the CALL, which its RET pops. -/
theorem callThenRetResumesAfterTheCall : Obligations.CallThenRetResumesAfterTheCall := by
  intro nnn s h
  refine ⟨_, exec_call_below h, fun u hSp hTop => ?_⟩
  have hSpNat : u.sp.val = s.sp.val + 1 := congrArg Fin.val hSp
  have hActive : 0 < u.sp.val := by omega
  have hFrame : u.topFrame hActive = s.pc := by
    simp only [State.topFrame, hSpNat, Nat.add_sub_cancel]
    rw [hTop]
    simp
  refine ⟨_, exec_ret_active hActive, ?pc, ?sp, rfl, fun a => by simp⟩
  case pc => rw [State.setPc_pc, hFrame]
  case sp =>
    refine Fin.ext ?_
    simp [hSpNat]

/-- Settles O25. -/
theorem stackOverflowAndUnderflowFault : Obligations.StackOverflowAndUnderflowFault :=
  fun _ _ => ⟨fun hsp => exec_call_full (by omega), fun hsp => exec_ret_empty (by omega)⟩

/-- Settles O27: both forms are the skip on a test of Vx against Vy. -/
theorem registerSkipsCompare : Obligations.RegisterSkipsCompare :=
  fun _ _ _ => ⟨skipsWhen_of_exec_skipIf rfl beq_iff_eq, skipsWhen_of_exec_skipIf rfl bne_iff_ne⟩

/-! ## Copy, logic, flags in VF and shift sources (R142 to R152) -/

/-- Settles O29. -/
theorem copyAndLogicWriteNoFlag : Obligations.CopyAndLogicWriteNoFlag :=
  fun _ _ _ => ⟨writesReg_of_exec_setV rfl, writesReg_of_exec_setV rfl, writesReg_of_exec_setV rfl,
    writesReg_of_exec_setV rfl⟩

/-- With VF as Vx an instruction that writes result, then flag, leaves the flag: no result is asked for. -/
theorem flagRemains_of_exec_setResultFlag {r : Byte} {c : Bool} {flag : Nat}
    (hExec : exec i s = .next (s.setResultFlag vf r c).advance) (hFlag : c.toNat = flag) :
    WritesRegAndFlag i vf 0 flag s :=
  writesRegAndFlag_of_exec_setResultFlag hExec (fun h => absurd rfl h) hFlag

/-- Settles O31. -/
theorem flagRemainsInVf : Obligations.FlagRemainsInVf :=
  fun _ _ => ⟨flagRemains_of_exec_setResultFlag rfl (toNat_carryFlag _ _),
    flagRemains_of_exec_setResultFlag rfl (toNat_notBorrowFlag _ _),
    flagRemains_of_exec_setResultFlag rfl (toNat_notBorrowFlag _ _),
    flagRemains_of_exec_setResultFlag rfl (toNat_shiftedOutRight _),
    flagRemains_of_exec_setResultFlag rfl (toNat_shiftedOutLeft _)⟩

/-- SHR and SHL in terms of the value they shift. -/
theorem shifts_of_operand {x y : Reg} {b : Byte} (h : s.shiftOperand x y = b) :
    WritesRegAndFlag (.shr x y) x (b.toNat / 2) (b.toNat % 2) s ∧
      WritesRegAndFlag (.shl x y) x (b.toNat * 2 % 256) (b.toNat / 128) s := by
  subst h
  exact ⟨writesRegAndFlag_of_exec_setResultFlag rfl (fun _ => toNat_byte_ushiftRight_one _) (toNat_shiftedOutRight _),
    writesRegAndFlag_of_exec_setResultFlag rfl (fun _ => toNat_byte_shiftLeft_one _) (toNat_shiftedOutLeft _)⟩

/-- Settles O32. -/
theorem shiftSourceSelectsTheOperand : Obligations.ShiftSourceSelectsTheOperand :=
  fun _ _ _ => ⟨fun hSource => shifts_of_operand (by rw [State.shiftOperand, hSource]),
    fun hSource => shifts_of_operand (by rw [State.shiftOperand, hSource])⟩

/-! ## RND (R210) -/

/-- Settles O46. -/
theorem rndMasksTheRandomByte : Obligations.RndMasksTheRandomByte := fun _ _ _ => writesReg_of_exec_setV rfl

/-! ## The skips on a key (R211, R212, R217) -/

/-- A value that names a key names that of its low nibble. -/
theorem keyIndex_eq_some {policy : KeyIndexPolicy} {b : Byte} (h : b.toNat ≤ 0xF ∨ policy = .mask) :
    keyIndex policy b = some (b.setWidth 4) := by
  unfold keyIndex
  split
  · rfl
  · next hAbove => rw [h.resolve_left hAbove]

theorem keyIndex_eq_none {b : Byte} (h : 0xF < b.toNat) : keyIndex .fault b = none := if_neg (Nat.not_le.mpr h)

theorem State.keyPressed_setWidth (b : Byte) : s.keyPressed (b.setWidth 4) = s.keys.getLsbD (b.toNat % 16) := by
  rw [State.keyPressed, BitVec.toNat_setWidth]

/-- Settles O47: both forms are the skip on the state of the key. -/
theorem keySkipsTestTheKey : Obligations.KeySkipsTestTheKey := by
  intro x s h
  have hKey := keyIndex_eq_some h
  refine ⟨skipsWhen_of_exec_skipIf (exec_skp_key hKey) ?_, skipsWhen_of_exec_skipIf (exec_sknp_key hKey) ?_⟩
  · rw [beq_iff_eq, State.keyPressed_setWidth]
  · rw [beq_iff_eq, State.keyPressed_setWidth]

/-- Settles O48. -/
theorem keyIndexAboveFFaults : Obligations.KeyIndexAboveFFaults := by
  intro x s hAbove hPolicy
  have hNone : keyIndex s.params.keyIndexPolicy (s.getV x) = none := hPolicy ▸ keyIndex_eq_none hAbove
  exact ⟨exec_skp_bad hNone, exec_sknp_bad hNone⟩

/-! ## LD DT, Vx and LD ST, Vx (R215, R216) -/

/-- Settles O50: the tick follows on the timer as Execute left it. -/
theorem timerWritesThenTick : Obligations.TimerWritesThenTick := by
  intro x s
  refine ⟨⟨(s.setDt (s.getV x)).advance, rfl, rfl, rfl, rfl, fun _ => rfl⟩,
    ⟨(s.setSt (s.getV x)).advance, rfl, rfl, rfl, rfl, fun _ => rfl⟩,
    fun hRunning hFetches => ?dt, fun hRunning hFetches => ?st⟩
  case dt =>
    have hStep := step_eq_tick hRunning hFetches rfl (s.beginStep_fault.trans hRunning)
    refine ⟨_, hStep, (toNat_tickTimer _).trans ?_⟩
    rw [State.advance_dt, State.setDt_dt, State.getV_beginStep]
  case st =>
    have hStep := step_eq_tick hRunning hFetches rfl (s.beginStep_fault.trans hRunning)
    refine ⟨_, hStep, (toNat_tickTimer _).trans ?_, State.tick_tone_iff.trans ?_⟩
    · rw [State.advance_st, State.setSt_st, State.getV_beginStep]
    · rw [State.advance_st, State.setSt_st, State.getV_beginStep]

/-! ## LD Vx, K (R214) -/

/-- Settles O51: the state that waits is the state that ticks. -/
theorem awaitKeyWaitsWhileTimersTick : Obligations.AwaitKeyWaitsWhileTimersTick := by
  intro x s
  have hWaits {u : State} (hKeys : u.keys = 0) : exec (.ldVxK x) u = .next u :=
    exec_ldVxK_waits (State.awaitedKey_eq_none.mpr hKeys)
  refine ⟨hWaits, fun hRunning hFetches hKeys => ?_⟩
  have hStep := step_eq_tick hRunning hFetches (hWaits hKeys) (s.beginStep_fault.trans hRunning)
  refine ⟨s.beginStep.tick, hStep, ?dt, ?st, ?tone, rfl⟩
  case dt => rw [State.tick_dt, toNat_tickTimer, State.beginStep_dt]
  case st => rw [State.tick_st, toNat_tickTimer, State.beginStep_st]
  case tone => rw [State.tick_tone_iff, State.beginStep_st]

/-- Pressed keys are listed in rising order. -/
theorem pairwise_pressedKeys (keys : BitVec 16) : (pressedKeys keys).Pairwise (· < ·) :=
  (List.pairwise_lt_finRange 16).filter _

/-- Under `lowestPressed` the key selected is the first listed. -/
theorem selectKey_lowestPressed (pick : Fin 16) (k : Fin 16) (ks : List (Fin 16)) :
    selectKey .lowestPressed pick (k :: ks) = some k := by
  cases ks with
  | nil => rfl
  | cons _ _ => rfl

/-- Under `anyPressed` the key selected is the one at the drawn place. -/
theorem selectKey_anyPressed {ks : List (Fin 16)} {d : Fin 16} (h : d.val < ks.length) :
    selectKey .anyPressed d ks = some ks[d.val] := by
  match ks, h with
  | [k], h => simp [selectKey]
  | k :: j :: ks, h =>
    have hMod : d.val % (ks.length + 2) = d.val := Nat.mod_eq_of_lt h
    rw [selectKey, hMod]
    exact List.getElem?_eq_getElem h

/-- No key below the first one listed is pressed. -/
theorem not_pressed_below_lowest {keys : BitVec 16} {k : Fin 16} {ks : List (Fin 16)} (h : pressedKeys keys = k :: ks)
    {j : Fin 16} (hj : j < k) : keys.getLsbD j.val = false := by
  have hSorted := pairwise_pressedKeys keys
  rw [h, List.pairwise_cons] at hSorted
  have hNot : j ∉ pressedKeys keys := by
    rw [h, List.mem_cons]
    rintro (rfl | hMem)
    · exact lt_irrefl _ hj
    · exact lt_asymm hj (hSorted.1 j hMem)
  exact Bool.eq_false_of_not_eq_true (mt mem_pressedKeys.mpr hNot)

/-- Settles O52: the key awaited is one of those pressed. -/
theorem awaitKeyStoresAPressedKey : Obligations.AwaitKeyStoresAPressedKey := by
  intro x s hKeys
  obtain ⟨k, hk⟩ : ∃ k, s.awaitedKey = some k := Option.ne_none_iff_exists'.mp (mt State.awaitedKey_eq_none.mp hKeys)
  refine ⟨k, mem_pressedKeys.mp (selectKey_mem hk), writesReg_of_exec_setV (exec_ldVxK_resolves hk),
    fun hLowest j hj => ?_⟩
  rw [State.awaitedKey, hLowest] at hk
  cases hPressed : pressedKeys s.keys with
  | nil =>
    rw [hPressed] at hk
    cases hk
  | cons l ls =>
    rw [hPressed, selectKey_lowestPressed] at hk
    cases hk
    exact not_pressed_below_lowest hPressed hj

/-- Settles O53: the draw is the key's place among the pressed keys. -/
theorem everyPressedKeyMayBeStored : Obligations.EveryPressedKeyMayBeStored := by
  intro x s k hPolicy hPressed
  obtain ⟨n, hn, rfl⟩ := List.mem_iff_getElem.mp (mem_pressedKeys.mpr hPressed)
  have hLength : (pressedKeys s.keys).length ≤ 16 := (List.length_filter_le _ _).trans_eq List.length_finRange
  obtain ⟨d, rfl⟩ : ∃ d : Fin 16, d.val = n := ⟨⟨n, by omega⟩, rfl⟩
  have hAwaited : ({ s with pick := d } : State).awaitedKey = some (pressedKeys s.keys)[d.val] := by
    show selectKey s.params.keySelect d (pressedKeys s.keys) = _
    rw [hPolicy, selectKey_anyPressed hn]
  exact ⟨d, writesReg_of_exec_setV (exec_ldVxK_resolves hAwaited)⟩

end Sys2Proof.Machine

/-! PROOFS. DRW (R192 to R195): the sprite XORed onto the screen, and the collision in VF. -/

namespace Sys2Proof.Machine

variable {s t : State} {x y : Reg} {n : Nibble}

/-! ## DRW whose rows are all in memory -/

/-- The state DRW leaves, where its rows are in memory. -/
def State.drawn (s : State) (x y : Reg) (n : Nibble) : State :=
  ((s.draw (Framebuffer.blit (s.sprite x y n) (s.fb, false)).1).setFlag
    (Framebuffer.blit (s.sprite x y n) (s.fb, false)).2).advance

theorem exec_drw_of_range (h : n.toNat = 0 ∨ s.i.toNat + n.toNat - 1 ≤ 0xFFF) :
    exec (.drw x y n) s = .next (s.drawn x y n) :=
  exec_drw_fits (firstBadAddress_eq_none.mpr (h.imp_right fun hRange => show s.i.toNat + n.toNat ≤ 4096 by omega))

/-- Each pixel is the old one XOR whether the sprite has it. -/
theorem State.lit_drawn (s : State) (x y : Reg) (n : Nibble) (p : Pixel) :
    (s.drawn x y n).fb.lit p = (s.fb.lit p ^^ decide (p ∈ s.sprite x y n)) :=
  (Framebuffer.blit_spec (s.nodup_sprite x y n) s.fb false).1 p

/-- VF is whether a pixel of the sprite was lit. -/
theorem State.getV_vf_drawn (s : State) (x y : Reg) (n : Nibble) :
    (s.drawn x y n).getV vf = flagByte ((s.sprite x y n).any s.fb.lit) := by
  rw [State.drawn, State.getV_advance, State.getV_setFlag, if_pos rfl,
    (Framebuffer.blit_spec (s.nodup_sprite x y n) s.fb false).2, Bool.false_or]

theorem flagByte_eq_one {c : Bool} : flagByte c = 1 ↔ c = true := by
  cases c with
  | false => decide
  | true => decide

/-- VF is 1 exactly when the sprite covers a lit pixel. -/
theorem State.getV_vf_drawn_eq_one :
    (s.drawn x y n).getV vf = 1 ↔
      ∃ p, s.SpriteCovers (s.getV x).toNat (s.getV y).toNat n.toNat p ∧ s.fb.lit p = true := by
  simp only [State.getV_vf_drawn, flagByte_eq_one, List.any_eq_true, State.mem_sprite]

/-- VF is 0 when every pixel the sprite covers is unlit. -/
theorem State.getV_vf_drawn_eq_zero
    (h : ∀ p, s.SpriteCovers (s.getV x).toNat (s.getV y).toNat n.toNat p → s.fb.lit p = false) :
    (s.drawn x y n).getV vf = 0 := by
  have hNone : (s.sprite x y n).any s.fb.lit = false :=
    List.any_eq_false.mpr fun p hp => Bool.not_eq_true _ ▸ h p (State.mem_sprite.mp hp)
  rw [State.getV_vf_drawn, hNone]
  rfl

theorem xor_decide_eq_true {a : Bool} {P : Prop} [Decidable P] : (a ^^ decide P) = true ↔ Xor (a = true) P := by
  cases a with
  | false => simp
  | true => simp

/-- Settles O42. -/
theorem drawXorsTheSprite : Obligations.DrawXorsTheSprite := by
  intro x y n s hRange
  refine ⟨s.drawn x y n, exec_drw_of_range hRange, fun p => ?pixels, State.getV_vf_drawn_eq_one.mpr,
    State.getV_vf_drawn_eq_zero, fun q hq => ?others, rfl, rfl, rfl, fun a => ?bytes⟩
  case pixels => rw [State.lit_drawn, xor_decide_eq_true, State.mem_sprite]
  case others => rw [State.drawn, State.getV_advance, State.getV_setFlag, if_neg hq, State.getV_draw]
  case bytes => simp [State.drawn]

/-! ## Drawing twice (R192, S9) -/

/-- A sprite depends on the coordinates alone, where neither I, memory nor a parameter is written. -/
theorem State.sprite_drawn (hx : (s.drawn x y n).getV x = s.getV x) (hy : (s.drawn x y n).getV y = s.getV y) :
    (s.drawn x y n).sprite x y n = s.sprite x y n := by
  simp only [State.sprite, hx, hy]
  rfl

/-- The second draw flips every pixel back. -/
theorem State.fb_drawn_drawn (hSprite : (s.drawn x y n).sprite x y n = s.sprite x y n) :
    ((s.drawn x y n).drawn x y n).fb = s.fb := by
  refine Framebuffer.ext_lit fun p => ?_
  rw [State.lit_drawn, State.lit_drawn, hSprite, Bool.xor_assoc, Bool.xor_self, Bool.xor_false]

/-- Over unlit pixels the first draw lights all of the sprite, so the second collides as soon as there is one. -/
theorem State.getV_vf_drawn_drawn (hSprite : (s.drawn x y n).sprite x y n = s.sprite x y n)
    (hUnlit : ∀ p, s.SpriteCovers (s.getV x).toNat (s.getV y).toNat n.toNat p → s.fb.lit p = false) :
    ((s.drawn x y n).drawn x y n).getV vf = 1 ↔
      ∃ p, s.SpriteCovers (s.getV x).toNat (s.getV y).toNat n.toNat p := by
  rw [State.getV_vf_drawn, flagByte_eq_one, hSprite, List.any_eq_true]
  refine exists_congr fun p => ⟨fun ⟨hp, _⟩ => State.mem_sprite.mp hp, fun hCovers => ?_⟩
  have hp := State.mem_sprite.mpr hCovers
  refine ⟨hp, ?_⟩
  rw [State.lit_drawn, hUnlit p hCovers, decide_eq_true hp, Bool.false_xor]

/-- Settles O43. -/
theorem drawingTwiceRestoresTheScreen : Obligations.DrawingTwiceRestoresTheScreen := by
  intro x y n s t hRange h hx hy
  cases h.symm.trans (exec_drw_of_range hRange)
  have hSprite := State.sprite_drawn hx hy
  exact ⟨_, exec_drw_of_range (s := s.drawn x y n) hRange, State.fb_drawn_drawn hSprite,
    State.getV_vf_drawn_drawn hSprite⟩

/-! ## A start off the screen, clipped (R194) -/

theorem State.not_spriteCovers_of_clip {x0 y0 m : Nat} (hEdge : s.params.drawEdge = .clip) (h : 64 ≤ x0 ∨ 32 ≤ y0)
    (p : Pixel) : ¬s.SpriteCovers x0 y0 m p := by
  rintro ⟨r, k, -, -, -, hLands⟩
  rw [hEdge] at hLands
  obtain ⟨hColumn, hRow⟩ := hLands
  have := p.x.isLt
  have := p.y.isLt
  omega

/-- Settles O44: such a sprite covers no pixel. -/
theorem clippedStartDrawsNothing : Obligations.ClippedStartDrawsNothing := by
  intro x y n s hEdge hRange hStart
  have hNone := State.not_spriteCovers_of_clip (m := n.toNat) hEdge hStart
  refine ⟨s.drawn x y n, exec_drw_of_range hRange, Framebuffer.ext_lit fun p => ?_,
    State.getV_vf_drawn_eq_zero fun p hp => absurd hp (hNone p), rfl⟩
  rw [State.lit_drawn, decide_eq_false (mt State.mem_sprite.mp (hNone p)), Bool.xor_false]

end Sys2Proof.Machine
